-- ==== Sys2Proof/Word.lean ====
section
/-! DEFINITION. The bit vectors of the block: bytes on the wire, 16-bit coordinates and pixels, the
24-bit address field and the 32-bit frame header (00_scope.md R13). -/

namespace Sys2Proof

/-- A byte: 8 bits (00_scope.md R13). -/
abbrev Byte := BitVec 8

/-- A 16-bit value: a window coordinate (10_state.md R31) or an RGB565 pixel (30_encoding.md R110). -/
abbrev Half := BitVec 16

/-- The 24-bit address field of a frame (20_memory.md R63). -/
abbrev Addr := BitVec 24

/-- The 32-bit frame header `{marker, addr}` (30_encoding.md R101). -/
abbrev Header := BitVec 32

end Sys2Proof
end

