-- ==== Sys2Proof/Config.lean ====
section
/-! DEFINITION. The configuration of 00_scope.md R9, strapped and read-only at run time (R11, 10_state.md R42),
and the values the spec leaves open, as uninterpreted constants. -/

namespace Sys2Proof

/-- One entry of the init table: "opcode: 8-bit, parameters: ordered sequence of 8-bit values (length 0–36),
post_delay: duration" in milliseconds (30_encoding.md R112, 00_scope.md R15). -/
structure CommandEntry where
  opcode     : Byte
  parameters : List Byte
  postDelay  : Nat
deriving DecidableEq, Repr, Inhabited

/-- `PIX_BYTE_ORDER` (20_memory.md R65): which byte of a pixel goes on the wire first. -/
inductive PixOrder where
  | hiFirst
  | loFirst
deriving DecidableEq, Repr

/-- The parameters of 00_scope.md R9. `MAX_PARAMS` is fixed (`maxParams`); `XErr` and `XHandle` are types (Syntax.lean). -/
structure Config where
  /-- `MARKER_CMD`, the command-class marker. -/
  markerCmd    : Byte
  /-- `MARKER_PIX`, the pixel-class marker. -/
  markerPix    : Byte
  opCaset      : Byte
  opRaset      : Byte
  /-- `OP_PIXWR`: 0x2C or 0x3C (R12). -/
  opPixwr      : Byte
  opColmod     : Byte
  opMadctl     : Byte
  opTeon       : Byte
  opInvon      : Byte
  opSlpout     : Byte
  opDispon     : Byte
  panelW       : Nat
  panelH       : Nat
  /-- `INIT_TABLE`, the only stored program (R8). -/
  initTable    : List CommandEntry
  /-- `T_RST_LOW_MS`. -/
  tRstLow      : Nat
  /-- `T_RST_SETTLE_MS`. -/
  tRstSettle   : Nat
  /-- `T_SLPOUT_MS`. -/
  tSlpout      : Nat
  /-- `MAX_XFER_BYTES`, the transport's maximum transfer size; the block never compares with it (R230). -/
  maxXferBytes : Nat
  pixOrder     : PixOrder
deriving DecidableEq, Repr

/-- `MAX_PARAMS` = 36 (00_scope.md R9, 90_conflicts.md C7). -/
def maxParams : Nat := 36

/-- OPEN (00_scope.md R9, 92_eei_decisions.md D18): the vendor-opaque entries of the hardware's table. Log entry 3. -/
opaque Config.openVendorEntries : List CommandEntry

/-- OPEN (D18): the parameter bytes of terminal role 0 to 5. Log entry 3. -/
opaque Config.openTerminalParams : Nat → List Byte

/-- OPEN (D18): the post-delay of terminal role 0 to 5. Log entry 3. -/
opaque Config.openTerminalDelay : Nat → Nat

/-- OPEN (D29): the transport's maximum transfer size. Log entry 4. -/
opaque Config.openMaxXferBytes : Nat

/-- Free value (10_state.md R37, 93_implementation_defined.md U13): byte `i` of the scratch buffer that the `k`-th
allocation gives, before anything is written there. Log entry 19. -/
opaque Config.freshScratchByte : Nat → Nat → Byte

/-- The six terminal entries in their order (41_init_sequencer.md R167): COLMOD, MADCTL, TEON, INVON, SLPOUT, DISPON. -/
def Config.terminalEntries (c : Config) (params : Nat → List Byte) (delay : Nat → Nat) : List CommandEntry :=
  [⟨c.opColmod, params 0, delay 0⟩, ⟨c.opMadctl, params 1, delay 1⟩, ⟨c.opTeon, params 2, delay 2⟩,
   ⟨c.opInvon, params 3, delay 3⟩, ⟨c.opSlpout, params 4, delay 4⟩, ⟨c.opDispon, params 5, delay 5⟩]

/-- A vendor-opaque entry cut to the parameter limit (41_init_sequencer.md R166 W1). -/
def CommandEntry.clip (e : CommandEntry) : CommandEntry :=
  { e with parameters := e.parameters.take maxParams }

/-- The configuration with the defaults of 00_scope.md R9 and the init table `t`. PRESUMED where R9 marks the default
`[from general knowledge, not in source]`. Log entry 2. -/
def Config.withTable (t : List CommandEntry) : Config where
  markerCmd := 0x02
  markerPix := 0x32
  opCaset := 0x2A
  opRaset := 0x2B
  opPixwr := 0x2C
  opColmod := 0x3A
  opMadctl := 0x36
  opTeon := 0x35
  opInvon := 0x21
  opSlpout := 0x11
  opDispon := 0x29
  panelW := 360
  panelH := 360
  initTable := t
  tRstLow := 10
  tRstSettle := 120
  tSlpout := 120
  maxXferBytes := Config.openMaxXferBytes
  pixOrder := .hiFirst

/-- The hardware's init table: the OPEN contents in the shape that 41_init_sequencer.md R166 requires (parameters
within `MAX_PARAMS`, the six terminal entries last, the sleep-exit delay at least 120 ms). Log entry 3. -/
def Config.openTable : List CommandEntry :=
  Config.openVendorEntries.map CommandEntry.clip ++
    (Config.withTable []).terminalEntries (fun r => (Config.openTerminalParams r).take maxParams)
      (fun r => if r = 4 then max 120 (Config.openTerminalDelay r) else Config.openTerminalDelay r)

/-- The configuration the machine is strapped with at reset: defaults of R9, OPEN table. -/
def Config.default : Config := Config.withTable Config.openTable

end Sys2Proof
end

