-- ==== Sys2Proof/Syntax.lean ====
section
/-! DEFINITION. The operations of the block, one constructor per row of spec/opcode_table.json, and the raw lines of
the host port. -/

namespace Sys2Proof

/-- `XHandle`, the opaque handle to a transport connection (00_scope.md R9, D2). The block stores it and inspects
nothing of it. Log entry 5. -/
structure XHandle where
  id : Nat
deriving DecidableEq, Repr, Inhabited

/-- `XErr`, the transport's opaque failure value, copied and never inspected (00_scope.md R9, D34). Log entry 5. -/
structure XErr where
  code : Nat
deriving DecidableEq, Repr, Inhabited

/-- An AddressWindow: start coordinates, exclusive end bounds (10_state.md R31). -/
structure Window where
  x0 : Half
  y0 : Half
  x1 : Half
  y1 : Half
deriving DecidableEq, Repr, Inhabited

/-- The operations (00_scope.md R8): the frame rows of the opcode table, each the transaction its rule describes, and the
two host operations. -/
inductive Instr where
  /-- CMDWR: command write of any opcode (R140). -/
  | cmdwr (op : Byte) (params : List Byte)
  /-- CASET: column address set, `x1` exclusive (R193). -/
  | caset (x0 x1 : Half)
  /-- RASET: row address set, `y1` exclusive (R194). -/
  | raset (y0 y1 : Half)
  /-- RAMWR: color write under `OP_PIXWR = 0x2C` (R146). -/
  | ramwr (bytes : List Byte)
  /-- RAMWRC: color write under `OP_PIXWR = 0x3C` (R147). -/
  | ramwrc (bytes : List Byte)
  /-- COLMOD: terminal entry (a) (R170). -/
  | colmod (params : List Byte)
  /-- MADCTL: terminal entry (b) (R171). -/
  | madctl (params : List Byte)
  /-- TEON: terminal entry (c) (R172). -/
  | teon (params : List Byte)
  /-- INVON: terminal entry (d) (R173). -/
  | invon (params : List Byte)
  /-- SLPOUT: terminal entry (e) (R174). -/
  | slpout (params : List Byte)
  /-- DISPON: terminal entry (f) (R175). -/
  | dispon (params : List Byte)
  /-- VENDOR: every other table entry (R176). -/
  | vendor (op : Byte) (params : List Byte)
  /-- INIT: host operation, select 0 (R160). -/
  | init (rstCfg : Bool) (xport : Option XHandle)
  /-- FLUSH: host operation, select 1 (R220); `src = none` is the null buffer reference. -/
  | flush (x0 y0 x1 y1 : Half) (src : Option (List Half))
deriving DecidableEq, Repr

/-- The raw lines of the host port (10_state.md R43): the select bit (30_encoding.md R114) and the operands. -/
structure HostPort where
  sel    : BitVec 1
  rstCfg : Bool
  xport  : Option XHandle
  x0     : Half
  y0     : Half
  x1     : Half
  y1     : Half
  src    : Option (List Half)
deriving DecidableEq, Repr

end Sys2Proof
end

