-- ==== Sys2Proof/WellFormed.lean ====
section
/-! DEFINITION. Which configurations are configurations of this block (00_scope.md R10, 41_init_sequencer.md R166) and
which terms of `Instr` are operations it can perform (30_encoding.md R102, R103, R106). -/

namespace Sys2Proof

/-- W1 (41_init_sequencer.md R166): every entry's parameters fit `MAX_PARAMS`. -/
def Config.tableParamsOk (c : Config) : Bool :=
  c.initTable.all (fun e => decide (e.parameters.length ≤ maxParams))

/-- W2 (R166, R167): the last six entries are the terminal entries, in order. -/
def Config.tableTerminalOk (c : Config) : Bool :=
  (c.initTable.drop (c.initTable.length - 6)).map CommandEntry.opcode ==
    [c.opColmod, c.opMadctl, c.opTeon, c.opInvon, c.opSlpout, c.opDispon]

/-- W3 (R166): the sleep-exit entry has a post-delay of at least `T_SLPOUT_MS`. -/
def Config.tableSleepOk (c : Config) : Bool :=
  match c.initTable[c.initTable.length - 2]? with
  | some e => decide (c.tSlpout ≤ e.postDelay)
  | none => false

/-- 00_scope.md R10: "`MARKER_PIX ≠ MARKER_CMD`; `OP_PIXWR ∈ {0x2C, 0x3C}`", the floors, the panel bounds. -/
def Config.paramsOk (c : Config) : Bool :=
  decide (c.markerPix ≠ c.markerCmd) && decide (c.opPixwr = 0x2C ∨ c.opPixwr = 0x3C) &&
    decide (10 ≤ c.tRstLow) && decide (120 ≤ c.tRstSettle) && decide (120 ≤ c.tSlpout) &&
    decide (1 ≤ c.panelW ∧ c.panelW ≤ 65535) && decide (1 ≤ c.panelH ∧ c.panelH ≤ 65535)

/-- A configuration of this block (R10 and W1 to W3). 93_implementation_defined.md U7, U19, U20: any other is refused. -/
def Config.wf (c : Config) : Bool :=
  c.paramsOk && c.tableParamsOk && c.tableTerminalOk && c.tableSleepOk

/-- The eight command opcodes the configuration names. -/
def Config.namedOps (c : Config) : List Byte :=
  [c.opCaset, c.opRaset, c.opColmod, c.opMadctl, c.opTeon, c.opInvon, c.opSlpout, c.opDispon]

/-- The named opcodes tell the frame kinds apart (30_encoding.md R113). No rule requires it of a configuration; a
statement about decoding names it as a premise. -/
def Config.opsDistinct (c : Config) : Bool := decide c.namedOps.Nodup

/-- An operation the block can perform: at most 36 parameter bytes (R102, R141), a window side of positive length (R106,
R195), a payload of `2 * npix` bytes with `npix ≥ 1` (R103). The host operations take any operands: a bad one is an error
result, not an ill-formed operation (R222). -/
def Instr.wf : Instr → Bool
  | .cmdwr _ ps => decide (ps.length ≤ maxParams)
  | .caset x0 x1 => decide (x0.toNat < x1.toNat)
  | .raset y0 y1 => decide (y0.toNat < y1.toNat)
  | .ramwr bs => decide (bs ≠ [] ∧ bs.length % 2 = 0)
  | .ramwrc bs => decide (bs ≠ [] ∧ bs.length % 2 = 0)
  | .colmod ps => decide (ps.length ≤ maxParams)
  | .madctl ps => decide (ps.length ≤ maxParams)
  | .teon ps => decide (ps.length ≤ maxParams)
  | .invon ps => decide (ps.length ≤ maxParams)
  | .slpout ps => decide (ps.length ≤ maxParams)
  | .dispon ps => decide (ps.length ≤ maxParams)
  | .vendor _ ps => decide (ps.length ≤ maxParams)
  | .init _ _ => true
  | .flush _ _ _ _ _ => true

end Sys2Proof
end

