-- ==== Sys2Proof/Machine/Operands.lean ====
section
/-! DEFINITION. Operand forms and field assembly: byte order, the address field and header, the address-set payload,
pixel bytes, window area (30_encoding.md R101 to R107, 20_memory.md R63 to R66). -/

namespace Sys2Proof

/-- `hi8(w) = w[15:8]` (00_scope.md R14). -/
def hi8 (v : Half) : Byte := v.extractLsb' 8 8

/-- `lo8(w) = w[7:0]` (00_scope.md R14). -/
def lo8 (v : Half) : Byte := v.extractLsb' 0 8

/-- `be16(w) = [hi8(w), lo8(w)]` (00_scope.md R14, 20_memory.md R64). -/
def be16 (v : Half) : List Byte := [hi8 v, lo8 v]

/-- The 16-bit value of two bytes, high byte first. -/
def ofBe16 (hi lo : Byte) : Half := hi ++ lo

/-- `addr = zext_24(opcode) << 8` (30_encoding.md R105). -/
def addressField (op : Byte) : Addr := op.setWidth 24 <<< 8

/-- `hdr = {marker, addr}` (30_encoding.md R101). -/
def frameHeader (marker op : Byte) : Header := marker ++ addressField op

/-- `hdr[31:24]`. -/
def headerMarker (h : Header) : Byte := h.extractLsb' 24 8

/-- `hdr[23:0]`. -/
def headerAddr (h : Header) : Addr := h.extractLsb' 0 24

/-- The panel opcode: bits 15:8 of the address field (20_memory.md R63). -/
def addrOpcode (a : Addr) : Byte := a.extractLsb' 8 8

/-- A frame as bytes in wire order: `[marker, 0x00, opcode, 0x00] ++ data` (30_encoding.md R101, R108). -/
def frameBytes (marker op : Byte) (data : List Byte) : List Byte := marker :: 0 :: op :: 0 :: data

/-- `be16(start) ++ be16(end - 1)`: one side of the address-set payload (30_encoding.md R106, 42_address_window.md R191). -/
def sidePayload (start stop : Half) : List Byte := be16 start ++ be16 (stop - 1)

/-- `bytes(p)` (30_encoding.md R107, 20_memory.md R65). -/
def pixelBytes (o : PixOrder) (p : Half) : List Byte :=
  match o with
  | .hiFirst => [hi8 p, lo8 p]
  | .loFirst => [lo8 p, hi8 p]

/-- The pixel that two payload bytes carry, in wire order (20_memory.md R65). -/
def pixelOfBytes (o : PixOrder) (b0 b1 : Byte) : Half :=
  match o with
  | .hiFirst => ofBe16 b0 b1
  | .loFirst => ofBe16 b1 b0

/-- The pixels of a payload (20_memory.md R70: pixel `k` is bytes `2k` and `2k+1`). -/
def pixelsOfBytes (o : PixOrder) : List Byte → List Half
  | b0 :: b1 :: rest => pixelOfBytes o b0 b1 :: pixelsOfBytes o rest
  | _ => []

/-- Columns of a window, `x1 - x0`. -/
def Window.width (w : Window) : Nat := w.x1.toNat - w.x0.toNat

/-- Rows of a window, `y1 - y0`. -/
def Window.height (w : Window) : Nat := w.y1.toNat - w.y0.toNat

/-- `npix = (x1 - x0) * (y1 - y0)`, exact (44_flush_pipeline.md R223). -/
def Window.npix (w : Window) : Nat := w.width * w.height

/-- The window has no area: `x1 ≤ x0 or y1 ≤ y0` (44_flush_pipeline.md R222). -/
def Window.zeroArea (w : Window) : Bool :=
  decide (w.x1.toNat ≤ w.x0.toNat) || decide (w.y1.toNat ≤ w.y0.toNat)

/-- The window reaches outside the panel: `x1 > PANEL_W or y1 > PANEL_H` (44_flush_pipeline.md R222). -/
def Window.outOfPanel (c : Config) (w : Window) : Bool :=
  decide (c.panelW < w.x1.toNat) || decide (c.panelH < w.y1.toNat)

/-- The AddressWindow invariant "0 ≤ x0 < x1 ≤ panel width, 0 ≤ y0 < y1 ≤ panel height" (00_scope.md R17). -/
def Window.valid (c : Config) (w : Window) : Bool := !w.zeroArea && !w.outOfPanel c

/-- Window position of payload pixel `k`, row-major (20_memory.md R66). -/
def Window.position (w : Window) (k : Nat) : Nat × Nat :=
  (w.x0.toNat + k % w.width, w.y0.toNat + k / w.width)

/-- A table entry as the operation the Init Sequencer performs for it: by its place from the end for the six terminal
roles, else VENDOR (41_init_sequencer.md R167, R170 to R176). In every case the entry's own opcode and bytes are sent. -/
def Config.entryInstr (c : Config) (i : Nat) (e : CommandEntry) : Instr :=
  if i + 6 = c.initTable.length ∧ e.opcode = c.opColmod then .colmod e.parameters
  else if i + 5 = c.initTable.length ∧ e.opcode = c.opMadctl then .madctl e.parameters
  else if i + 4 = c.initTable.length ∧ e.opcode = c.opTeon then .teon e.parameters
  else if i + 3 = c.initTable.length ∧ e.opcode = c.opInvon then .invon e.parameters
  else if i + 2 = c.initTable.length ∧ e.opcode = c.opSlpout then .slpout e.parameters
  else if i + 1 = c.initTable.length ∧ e.opcode = c.opDispon then .dispon e.parameters
  else .vendor e.opcode e.parameters

/-- The two operations that SETWIN expands to (30_encoding.md R125, 42_address_window.md R190). -/
def setwinInstrs (w : Window) : List Instr := [.caset w.x0 w.x1, .raset w.y0 w.y1]

end Sys2Proof
end

