-- ==== Sys2Proof/Decode.lean ====
section
/-! DEFINITION. The decoder of frames and of the host port's lines, and after it the encoder. The block itself decodes
no frame: a frame decoder classifies the block's output by marker, then opcode (30_encoding.md R113), and rejects what the
block never emits (R120). The host port's select bit is what the block decodes (R114). -/

namespace Sys2Proof

/-- What is decoded: the bytes of a frame in wire order, or the lines of the host port. -/
inductive Code where
  | frame (bytes : List Byte)
  | host (port : HostPort)
deriving DecidableEq, Repr

/-- Why a frame is rejected. Each is a frame the block never emits (30_encoding.md R120). -/
inductive DecodeError where
  /-- Fewer than the 32 header bits. -/
  | shortHeader
  /-- A marker other than `MARKER_CMD` or `MARKER_PIX`. -/
  | unknownMarker
  /-- An address with a non-zero bit outside 15:8. -/
  | addressBits
  /-- A class-CMD frame with more than 36 data bytes. -/
  | tooManyParams
  /-- A CASET or RASET with other than 4 data bytes. -/
  | addressSetLength
  /-- A CASET or RASET whose end lies before its start (no window gives it, R106, R195). -/
  | endBeforeStart
  /-- A CASET or RASET whose inclusive end is 0xFFFF (`x1 - 1 ≤ 65534`, 42_address_window.md R191). -/
  | endOutOfRange
  /-- A class-PIX frame whose opcode is not the configured `OP_PIXWR`, 0x2C or 0x3C. -/
  | pixelOpcode
  /-- A class-PIX frame with an odd or zero data length. -/
  | pixelLength
deriving DecidableEq, Repr

/-- The four bytes of an address set: start and inclusive end, each high byte first; the operand's end is exclusive
(30_encoding.md R106). -/
def decodeSide (mk : Half → Half → Instr) : List Byte → Except DecodeError Instr
  | [a, b, c, d] =>
    if ofBe16 c d = 0xFFFF then .error .endOutOfRange
    else if (ofBe16 c d).toNat < (ofBe16 a b).toNat then .error .endBeforeStart
    else .ok (mk (ofBe16 a b) (ofBe16 c d + 1))
  | _ => .error .addressSetLength

/-- A class-CMD frame by its opcode (30_encoding.md R102, R113). An opcode the configuration does not name is a VENDOR
entry's: log entry 11. -/
def decodeCommand (c : Config) (op : Byte) (data : List Byte) : Except DecodeError Instr :=
  if maxParams < data.length then .error .tooManyParams
  else if op = c.opCaset then decodeSide .caset data
  else if op = c.opRaset then decodeSide .raset data
  else if op = c.opColmod then .ok (.colmod data)
  else if op = c.opMadctl then .ok (.madctl data)
  else if op = c.opTeon then .ok (.teon data)
  else if op = c.opInvon then .ok (.invon data)
  else if op = c.opSlpout then .ok (.slpout data)
  else if op = c.opDispon then .ok (.dispon data)
  else .ok (.vendor op data)

/-- A class-PIX frame by its opcode, which is `OP_PIXWR` (30_encoding.md R103, R113, R120). -/
def decodePixel (c : Config) (op : Byte) (data : List Byte) : Except DecodeError Instr :=
  if data = [] ∨ data.length % 2 ≠ 0 then .error .pixelLength
  else if op ≠ c.opPixwr then .error .pixelOpcode
  else if op = 0x2C then .ok (.ramwr data)
  else if op = 0x3C then .ok (.ramwrc data)
  else .error .pixelOpcode

/-- A frame from its bytes in wire order (30_encoding.md R101, R108, R113). -/
def decodeFrame (c : Config) : List Byte → Except DecodeError Instr
  | marker :: addrHi :: op :: addrLo :: data =>
    if marker ≠ c.markerCmd ∧ marker ≠ c.markerPix then .error .unknownMarker
    else if addrHi ≠ 0 ∨ addrLo ≠ 0 then .error .addressBits
    else if marker = c.markerCmd then decodeCommand c op data
    else decodePixel c op data
  | _ => .error .shortHeader

/-- The host port: select 0 is INIT, 1 is FLUSH (30_encoding.md R114). -/
def decodeHost (p : HostPort) : Instr :=
  if p.sel = 0 then .init p.rstCfg p.xport else .flush p.x0 p.y0 p.x1 p.y1 p.src

/-- The decoder, total on any code. -/
def decode (c : Config) : Code → Except DecodeError Instr
  | .frame bytes => decodeFrame c bytes
  | .host port => .ok (decodeHost port)

/-- The host port with the given select bit and every operand line zero or null. -/
def HostPort.ofSelect (sel : BitVec 1) : HostPort := ⟨sel, false, none, 0, 0, 0, 0, none⟩

/-- The lines of a host operation. -/
def encodeInit (rstCfg : Bool) (xport : Option XHandle) : HostPort :=
  { HostPort.ofSelect 0 with rstCfg := rstCfg, xport := xport }

/-- The lines of a host operation. -/
def encodeFlush (x0 y0 x1 y1 : Half) (src : Option (List Half)) : HostPort :=
  { HostPort.ofSelect 1 with x0 := x0, y0 := y0, x1 := x1, y1 := y1, src := src }

/-- The encoder, from the frame formats C and P (30_encoding.md R102, R103, R106) and the host port (R114). -/
def encode (c : Config) : Instr → Code
  | .cmdwr op ps => .frame (frameBytes c.markerCmd op ps)
  | .caset x0 x1 => .frame (frameBytes c.markerCmd c.opCaset (sidePayload x0 x1))
  | .raset y0 y1 => .frame (frameBytes c.markerCmd c.opRaset (sidePayload y0 y1))
  | .ramwr bs => .frame (frameBytes c.markerPix 0x2C bs)
  | .ramwrc bs => .frame (frameBytes c.markerPix 0x3C bs)
  | .colmod ps => .frame (frameBytes c.markerCmd c.opColmod ps)
  | .madctl ps => .frame (frameBytes c.markerCmd c.opMadctl ps)
  | .teon ps => .frame (frameBytes c.markerCmd c.opTeon ps)
  | .invon ps => .frame (frameBytes c.markerCmd c.opInvon ps)
  | .slpout ps => .frame (frameBytes c.markerCmd c.opSlpout ps)
  | .dispon ps => .frame (frameBytes c.markerCmd c.opDispon ps)
  | .vendor op ps => .frame (frameBytes c.markerCmd op ps)
  | .init r x => .host (encodeInit r x)
  | .flush x0 y0 x1 y1 src => .host (encodeFlush x0 y0 x1 y1 src)

/-- Zero operand bytes that the shortest well-formed frame with this header carries: 4 for an address set, 2 for a color
write, else none. Log entry 13. -/
def tableDataLength (c : Config) (marker op : Byte) : Nat :=
  if marker = c.markerPix then 2
  else if op = c.opCaset ∨ op = c.opRaset then 4
  else 0

/-- The bytes of a 32-bit table word in wire order, the marker (bits 31:24) first (30_encoding.md R101), and its zero
operand bytes. -/
def tableFrame (c : Config) (w : Nat) : List Byte :=
  let b (i : Nat) : Byte := BitVec.ofNat 8 (w / 2 ^ (8 * i))
  b 3 :: b 2 :: b 1 :: b 0 :: List.replicate (tableDataLength c (b 3) (b 1)) 0

/-- The parameters that a table word's match value assumes: the defaults, and for the row RAMWRC `OP_PIXWR = 0x3C`
(40_transaction_encoder.md R147). Log entry 13. -/
def tableConfig (w : Nat) : Config :=
  { Config.default with opPixwr := if (BitVec.ofNat 8 (w / 2 ^ 8) : Byte) = 0x3C then 0x3C else 0x2C }

/-- The operation that the decoder reads from a word of spec/opcode_table.json, under the parameters the table's match
values assume: a format H row is the select bit of the host port with its operand lines zero, a format C or P row
is a 32-bit header. Log entry 13. -/
def decodeTableWord (nbits w : Nat) : Option Instr :=
  if nbits ≤ 8 then some (decodeHost (HostPort.ofSelect (BitVec.ofNat 1 w)))
  else if nbits = 32 then (decode (tableConfig w) (.frame (tableFrame (tableConfig w) w))).toOption
  else none

end Sys2Proof
end

