-- ==== Sys2Proof/Machine/Color.lean ====
section
/-! DEFINITION. The Color Correction unit: PERM, the function T (43_color_permutation.md R205), the fields of an RGB565
word (30_encoding.md R110), the pixel payload (R107), and the channels the glass shows (20_memory.md R85). -/

namespace Sys2Proof

/-- Red, `v[15:11]` (30_encoding.md R110). -/
def red (v : Half) : BitVec 5 := v.extractLsb' 11 5

/-- Green, `v[10:5]` (30_encoding.md R110). -/
def green (v : Half) : BitVec 6 := v.extractLsb' 5 6

/-- Blue, `v[4:0]` (30_encoding.md R110). -/
def blue (v : Half) : BitVec 5 := v.extractLsb' 0 5

/-- `{R, G, B}`: the word with the given fields. -/
def rgb565 (r : BitVec 5) (g : BitVec 6) (b : BitVec 5) : Half := r ++ g ++ b

/-- PERM, the function T (43_color_permutation.md R205): `R' = B`, `G' = R << 1` in 6 bits, `B' = G >> 1`. -/
def perm (v : Half) : Half :=
  rgb565 (blue v) ((red v).setWidth 6 <<< 1) ((green v >>> 1).setWidth 5)

/-- The pixel payload: the bytes of every corrected pixel in order (30_encoding.md R107). -/
def pixelPayload (o : PixOrder) (pixels : List Half) : List Byte :=
  pixels.flatMap (fun p => pixelBytes o (perm p))

/-- The red channel the glass shows for the sent word `s` (20_memory.md R85): driven by `s[10:5]`. -/
def shownRed (s : Half) : BitVec 6 := green s

/-- The shown green (20_memory.md R85): driven by `s[4:0]`. -/
def shownGreen (s : Half) : BitVec 5 := blue s

/-- The shown blue (20_memory.md R85): driven by `s[15:11]`. -/
def shownBlue (s : Half) : BitVec 5 := red s

end Sys2Proof
end

