-- ==== Sys2Proof/Machine/State.lean ====
section
/-! DEFINITION. The state of the block (10_state.md), its ports, the environment the step reads, the panel an observer
sees, the trace, the reasons a step can stop, and the state after power-on reset (10_state.md R47). -/

namespace Sys2Proof.Machine

/-- Level of the panel's reset line (10_state.md R23). -/
inductive Level where
  | low
  | high
deriving DecidableEq, Repr

/-- `init_status` (10_state.md R24). -/
inductive InitStatus where
  | never
  | ok
  | failed
deriving DecidableEq, Repr

/-- The controller's fourteen states (10_state.md R26). -/
inductive Phase where
  /-- No host operation in progress. -/
  | idle
  /-- INIT: reset line low, waiting. -/
  | iRstLow
  /-- INIT: reset line high, waiting. -/
  | iRstSettle
  /-- INIT: about to submit table entry `idx`. -/
  | iIssue
  /-- INIT: entry `idx` in flight. -/
  | iWait
  /-- INIT: entry `idx` completed, waiting its post-delay. -/
  | iDelay
  | fCasetIssue
  | fCasetWait
  | fRasetIssue
  | fRasetWait
  /-- FLUSH: about to ask for the scratch buffer. -/
  | fAlloc
  /-- FLUSH: PERMBUF running. -/
  | fPerm
  | fPixIssue
  | fPixWait
deriving DecidableEq, Repr

/-- Causes of an invalid-argument error (60_exceptions.md R241). -/
inductive Cause where
  | nullHandle
  | zeroArea
  | outOfPanel
  | lenMismatch
deriving DecidableEq, Repr

/-- The outcome of a host operation (10_state.md R25, 60_exceptions.md R240 to R245). A sum type: fields that a class does
not name do not exist (93_implementation_defined.md U11). -/
inductive Result where
  | ok
  | invalidArg (cause : Cause)
  | allocFail
  | xportFail (e : XErr)
  | initSeqFail (index : Nat) (opcode : Byte) (e : XErr)
deriving DecidableEq, Repr

/-- Lines of a data phase: `data_lines ∈ {1, 4}` (30_encoding.md R100). -/
inductive DataLines where
  | single
  | quad
deriving DecidableEq, Repr

/-- The transport request (30_encoding.md R100). -/
structure Req where
  marker    : Byte
  cmdBits   : Nat
  cmdLines  : Nat
  addr      : Addr
  addrBits  : Nat
  addrLines : Nat
  data      : List Byte
  dataLines : DataLines
deriving DecidableEq, Repr

/-- The transport's answer to a `Submit` (10_state.md R44). -/
inductive SubmitAnswer where
  | accepted
  | refused (e : XErr)
deriving DecidableEq, Repr

/-- The transport's completion signal (10_state.md R44). -/
inductive Completion where
  | done
  | failed (e : XErr)
deriving DecidableEq, Repr

/-- The allocator's answer (20_memory.md R81). -/
inductive AllocAnswer where
  | ok
  | noMem
deriving DecidableEq, Repr

/-- The observable events (10_state.md R48); `t` is the value of `now` in the step. -/
inductive Event where
  | rstDrive (level : Level) (t : Nat)
  | submitted (req : Req) (answer : SubmitAnswer) (t : Nat)
  | completed (req : Req) (outcome : Completion) (t : Nat)
  | allocated (n : Nat) (answer : AllocAnswer)
  | freed (t : Nat)
  | accepted (op : Instr) (t : Nat)
  | returned (result : Result) (t : Nat)
deriving DecidableEq, Repr

/-- One move of one agent (60_exceptions.md R263). -/
inductive Move where
  /-- The block's controller moves. -/
  | block
  /-- The clock advances `now` (20_memory.md R82). -/
  | clock (dt : Nat)
  /-- The host presents an operation at its port (20_memory.md R83). -/
  | host (port : HostPort)
  /-- The transport puts the answer it gives to the next `Submit` on its lines (20_memory.md R80). -/
  | answer (a : SubmitAnswer)
  /-- The transport signals completion of the request in flight (20_memory.md R80). -/
  | complete (c : Completion)
  /-- The allocator puts the answer it gives to the next `Alloc` on its line (20_memory.md R81). -/
  | allocator (a : AllocAnswer)
  /-- The power-on reset input is asserted (10_state.md R45). -/
  | por
deriving DecidableEq, Repr

/-- Memory: (address, value) pairs, addresses strictly rising. An address not listed holds no value. -/
abbrev Memory (α : Type) := List (Nat × α)

/-- The canonical form: addresses strictly rising. -/
def Memory.wf {α : Type} : Memory α → Bool
  | [] => true
  | [_] => true
  | c :: d :: m => decide (c.1 < d.1) && Memory.wf (d :: m)

/-- The scratch buffer (10_state.md R37): its size, which allocation it is, and the bytes written into it. -/
structure Scratch where
  size   : Nat
  serial : Nat
  bytes  : Memory Byte
deriving DecidableEq, Repr

/-- What an observer can say of the panel (20_memory.md R84 to R88). What it cannot say is not listed. Log entry 21. -/
structure Panel where
  /-- PREG: the parameter bytes last written to each register (20_memory.md R60 (1)). -/
  regs      : Memory (List Byte)
  /-- PFM: the pixel words by position `y * PANEL_W + x` (20_memory.md R60 (2)). -/
  fm        : Memory Half
  /-- The columns, inclusive, that a column address set left for the pixel write after it (R84). -/
  col       : Option (Half × Half)
  /-- The rows, inclusive, that a row address set directly after it left (R84). -/
  row       : Option (Half × Half)
  /-- The reset line is low. -/
  held      : Bool
  /-- The panel's state is not defined (R88, 70_reset_and_hazards.md R281): no reset pulse yet, or an INIT failed, or ran
  without one. -/
  lost      : Bool
  /-- No command sent before this time has a defined effect (R86, R87). -/
  notBefore : Nat
  /-- When the frame in flight was sent. -/
  sentAt    : Nat
deriving DecidableEq, Repr

/-- The state. Fields and their rules are listed in INVENTORY.md. -/
structure State where
  /-- The strapped configuration (00_scope.md R9, R11). -/
  cfg        : Config
  /-- R22. -/
  handle     : Option XHandle
  /-- R23. -/
  rstN       : Level
  /-- R24. -/
  initStatus : InitStatus
  /-- R25. -/
  result     : Result
  /-- R41. -/
  valid      : Bool
  /-- R26. -/
  phase      : Phase
  /-- R27. -/
  idx        : Nat
  /-- R28. -/
  tMark      : Nat
  /-- R29. -/
  rstCfg     : Bool
  /-- R31. -/
  win        : Window
  /-- R32. -/
  hdr        : Header
  /-- R33: 36 bytes. -/
  pbuf       : List Byte
  /-- R33. -/
  plen       : Nat
  /-- R34. -/
  px         : Half
  /-- R35. -/
  pcount     : Nat
  /-- R36. -/
  src        : Option (List Half)
  /-- R37. -/
  scratch    : Option Scratch
  /-- R39. -/
  inflight   : Option Req
  /-- 00_scope.md R15. -/
  now        : Nat
  /-- R43: the operation presented and not yet accepted. -/
  hostPort   : Option HostPort
  /-- R44: the answer the transport gives to a `Submit` made now. -/
  submitAns  : SubmitAnswer
  /-- R44, 60_exceptions.md R250: the completion signal, pending until a wait step consumes it. -/
  completion : Option Completion
  /-- R45, 20_memory.md R81: the answer the allocator gives to an `Alloc` made now. -/
  allocAns   : AllocAnswer
  /-- 20_memory.md R84 to R88. -/
  panel      : Panel
  /-- The model's own: successful allocations so far, the index of the free contents of a fresh buffer. Log entry 19. -/
  allocs     : Nat
  /-- The model's own: the agents' moves still to come (60_exceptions.md R263). Log entry 8. -/
  moves      : List Move
  /-- R48: the observable events, newest first. -/
  trace      : List Event
deriving DecidableEq, Repr

/-- Why the machine stops with a fault: an access to an address that does not exist (20_memory.md R60). All safe; no state
that meets the model's invariant raises one. Log entry 20. -/
inductive Fault where
  /-- `SrcRead` beyond `src_len`, or with no source buffer. Raised by PERMBUF. Safe. -/
  | srcIndex
  /-- An access to SCRATCH with no buffer allocated or beyond its size. Raised by PERMBUF and the pixel write. Safe. -/
  | scratchIndex
  /-- An index into TABLE at or past its length. Raised by the replay. Safe. -/
  | tableIndex
deriving DecidableEq, Repr

/-- Why the model gives no meaning. All safe: a run that the spec puts outside the model, or a unit operation outside the
place where the block invokes it. -/
inductive Refusal where
  /-- An instruction without a meaning yet. -/
  | notModelled (mnemonic : String)
  /-- INIT on a configuration that is not one of this block (93_implementation_defined.md U7, U19, U20). Raised by INIT. -/
  | illFormedConfig
  /-- A FLUSH of more bytes than the transport's maximum (U4). Raised by FLUSH. -/
  | transferTooLarge
  /-- A second operation presented while one waits at the port: two callers (U6). Raised by the host's move. -/
  | hostPortTaken
  /-- A completion with nothing in flight, or a second one (U8). Raised by the transport's move and the wait step. -/
  | spuriousCompletion
  /-- A unit operation in a phase that does not invoke it (00_scope.md R3). Raised by the frame operations. -/
  | notInvocable
  /-- `Submit` without a handle or with a request in flight (40_transaction_encoder.md R149). Raised by the frame operations. -/
  | submitPrecondition
  /-- A command write of more than 36 bytes (R141). Raised by the command writes. -/
  | paramsTooLong
  /-- An address set with no positive extent (42_address_window.md R195). Raised by CASET and RASET. -/
  | emptySide
  /-- A pixel payload that is empty or of odd length (30_encoding.md R120). Raised by RAMWR and RAMWRC. -/
  | badPayload
  /-- A pixel write whose opcode is not the configured `OP_PIXWR` (30_encoding.md R120). Raised by RAMWR and RAMWRC. -/
  | pixelOpcodeNotConfigured
deriving DecidableEq, Repr

/-- Nothing is known of the panel (70_reset_and_hazards.md R281). -/
def Panel.unknown : Panel := ⟨[], [], none, none, false, true, 0, 0⟩

/-- The state after `por` at power-on (10_state.md R47). The working registers R47 leaves unspecified hold zero (log
entry 6), the environment's lines the values of log entry 7. -/
def State.reset : State where
  cfg := Config.default
  handle := none
  rstN := .high
  initStatus := .never
  result := .ok
  valid := false
  phase := .idle
  idx := 0
  tMark := 0
  rstCfg := false
  win := ⟨0, 0, 0, 0⟩
  hdr := 0
  pbuf := List.replicate maxParams 0
  plen := 0
  px := 0
  pcount := 0
  src := none
  scratch := none
  inflight := none
  now := 0
  hostPort := none
  submitAns := .accepted
  completion := none
  allocAns := .ok
  panel := Panel.unknown
  allocs := 0
  moves := []
  trace := []

end Sys2Proof.Machine
end

