-- ==== Sys2Proof/Machine/Panel.lean ====
section
/-! DEFINITION. The operations over memories, and the panel as an observer sees it (20_memory.md R84 to R88,
92_eei_decisions.md D32). The block reads nothing of it. Log entry 21. -/

namespace Sys2Proof.Machine

/-- The value at an address, if one is listed. -/
def Memory.read {α : Type} (m : Memory α) (a : Nat) : Option α :=
  match m with
  | [] => none
  | (b, v) :: rest => if a = b then some v else Memory.read rest a

/-- Write one address, keeping the addresses strictly rising. -/
def Memory.write {α : Type} (m : Memory α) (a : Nat) (v : α) : Memory α :=
  match m with
  | [] => [(a, v)]
  | (b, w) :: rest =>
    if a < b then (a, v) :: (b, w) :: rest
    else if a = b then (a, v) :: rest
    else (b, w) :: Memory.write rest a v

/-- Write consecutive addresses from `a`. -/
def Memory.writeList {α : Type} (m : Memory α) (a : Nat) : List α → Memory α
  | [] => m
  | v :: vs => Memory.writeList (Memory.write m a v) (a + 1) vs

/-- Everything the observer knew of the panel's contents and window is gone (93_implementation_defined.md "any value"). -/
def Panel.forget (p : Panel) : Panel := { p with regs := [], fm := [], col := none, row := none }

/-- The panel's state is no longer defined (20_memory.md R88): only a reset pulse makes it so again. -/
def Panel.abandon (p : Panel) : Panel := { p.forget with lost := true }

/-- The reset line changes level at time `t` (20_memory.md R86, 70_reset_and_hazards.md R281): low resets the panel, the rise
at the end of the pulse starts the settle time. -/
def Panel.resetLine (p : Panel) (l : Level) (t : Nat) : Panel :=
  match l with
  | .low => { p.forget with held := true }
  | .high =>
    { p.forget with
      held := false
      lost := p.lost && !p.held
      notBefore := if p.held then t + 120 else p.notBefore }

/-- `por` releases the line. A pulse that it cuts short need not have reset the panel; a line already high does not move. -/
def Panel.lineReleased (p : Panel) (t : Nat) : Panel := if p.held then (p.resetLine .high t).abandon else p

/-- A frame is sent at time `t`. -/
def Panel.sending (p : Panel) (t : Nat) : Panel := { p with sentAt := t }

/-- Place of a pixel in PFM. -/
def pixelAddress (c : Config) (x y : Nat) : Nat := y * c.panelW + x

/-- Pixel `k`, `k + 1`, … of a payload land at their window positions, row-major (20_memory.md R84, R66). -/
def placePixels (c : Config) (w : Window) : Nat → List Half → Memory Half → Memory Half
  | _, [], m => m
  | k, v :: vs, m =>
    placePixels c w (k + 1) vs
      (Memory.write m (pixelAddress c (w.position k).1 (w.position k).2) v)

/-- The window whose inclusive column and row ranges are given. -/
def windowOfRanges (col row : Half × Half) : Window := ⟨col.1, row.1, col.2 + 1, row.2 + 1⟩

/-- The range that four address-set bytes carry. -/
def rangeOfBytes : List Byte → Option (Half × Half)
  | [a, b, c, d] => some (ofBe16 a b, ofBe16 c d)
  | _ => none

/-- A completed pixel write (20_memory.md R84). Without a window set by the two frames directly before it, or with a
payload that does not fill that window exactly, the contents of PFM are any value (R84, U5, 91_not_in_source.md N16). -/
def Panel.receivePixels (c : Config) (p : Panel) (data : List Byte) : Panel :=
  match p.col, p.row with
  | some col, some row =>
    let w := windowOfRanges col row
    if data.length = 2 * w.npix then
      { p with fm := placePixels c w 0 (pixelsOfBytes c.pixOrder data) p.fm, col := none, row := none }
    else { p with fm := [], col := none, row := none }
  | _, _ => { p with fm := [], col := none, row := none }

/-- A completed command write of register `op` (20_memory.md R60 (1), R84). -/
def Panel.receiveCommand (c : Config) (p : Panel) (op : Byte) (data : List Byte) : Panel :=
  let q := { p with regs := Memory.write p.regs op.toNat data }
  if op = c.opCaset then { q with col := rangeOfBytes data, row := none }
  else if op = c.opRaset then { q with row := rangeOfBytes data }
  else { q with col := none, row := none }

/-- The sleep-exit floor (20_memory.md R87): once a frame that carries the sleep-exit command has ended at time `t`, no command
sent before `t + 120` has a defined effect, whatever other parameter names the same opcode, and also where the frame was
itself sent early or failed on the bus (it may have acted). Log entry 21. -/
def Panel.sleepFloor (c : Config) (r : Req) (t : Nat) (p : Panel) : Panel :=
  if r.dataLines = .single ∧ addrOpcode r.addr = c.opSlpout then { p with notBefore := max p.notBefore (t + 120) } else p

/-- What a whole frame does to the panel. A frame sent while the panel does not accept commands, or while its state
is not defined, has no defined effect (20_memory.md R86 to R88); nor has a pixel write under 0x3C after a new window
(93_implementation_defined.md U15). -/
def Panel.takeFrame (c : Config) (p : Panel) (r : Req) : Panel :=
  if p.held ∨ p.lost ∨ p.sentAt < p.notBefore then p.forget
  else match r.dataLines with
    | .quad => if addrOpcode r.addr = 0x2C then p.receivePixels c r.data else { p with fm := [], col := none, row := none }
    | .single => p.receiveCommand c (addrOpcode r.addr) r.data

/-- The panel has received a whole frame at time `t`. -/
def Panel.receive (c : Config) (p : Panel) (r : Req) (t : Nat) : Panel := (p.takeFrame c r).sleepFloor c r t

/-- A frame failed on the bus at time `t`: what the panel took of it is not known. -/
def Panel.disturbed (c : Config) (p : Panel) (r : Req) (t : Nat) : Panel := p.forget.sleepFloor c r t

/-- The block is reset in the middle of an operation, or with a frame in flight: how far the panel came is not known. The
spec is silent on it (70_reset_and_hazards.md R280). Log entry 18. -/
def Panel.interrupted (p : Panel) (t : Nat) : Panel := (p.lineReleased t).abandon

end Sys2Proof.Machine
end

