-- ==== Sys2Proof/Machine/Ops.lean ====
section
/-! DEFINITION. The operations that the meanings share: the trace, the reset line, time marks, the scratch buffer, ending a
host operation (`raise`, 60_exceptions.md R246, and the return beside it), and Transact (40_transaction_encoder.md R149). -/

namespace Sys2Proof.Machine

/-- The outcome of an operation of this machine. -/
abbrev Result1 := Host.Outcome State Fault Refusal

/-- Record an observable event (10_state.md R48). -/
def State.log (e : Event) (s : State) : State := { s with trace := e :: s.trace }

/-- `phase <- p`. -/
def State.goto (p : Phase) (s : State) : State := { s with phase := p }

/-- `t_mark <- now` (10_state.md R28). -/
def State.markTime (s : State) : State := { s with tMark := s.now }

/-- `now - t_mark ≥ d` (00_scope.md R15). -/
def State.elapsed (s : State) (d : Nat) : Bool := decide (s.tMark + d ≤ s.now)

/-- `DriveRst(level)` (00_scope.md R14). -/
def State.driveRst (l : Level) (s : State) : State :=
  ({ s with rstN := l, panel := s.panel.resetLine l s.now }).log (.rstDrive l s.now)

/-- Load `pbuf` and `plen` (10_state.md R33). Bytes of `pbuf` past the new length keep what they held: log entry 22. -/
def State.loadParams (ps : List Byte) (s : State) : State :=
  { s with pbuf := ps ++ s.pbuf.drop ps.length, plen := ps.length }

/-- The parameter bytes of the command write being built (10_state.md R33). -/
def State.params (s : State) : List Byte := s.pbuf.take s.plen

/-- `Free()` (00_scope.md R14): release the scratch buffer if one is allocated (60_exceptions.md R246). -/
def State.free (s : State) : State :=
  match s.scratch with
  | none => s
  | some _ => ({ s with scratch := none }).log (.freed s.now)

/-- End the host operation with result `r`: release the scratch buffer, write `result`, set `valid`, back to `IDLE`
(60_exceptions.md R246; 41_init_sequencer.md R164 and 44_flush_pipeline.md R227, R228 for success). -/
def State.finish (r : Result) (s : State) : State :=
  ({ s.free with result := r, valid := true, phase := .idle }).log (.returned r s.now)

/-- `raise E(info)` (60_exceptions.md R246): the block's taking of an exception. `handle`, `rst_n`, `idx` stay. -/
def State.raise (r : Result) (s : State) : State := s.finish r

/-- `return OK` (60_exceptions.md R245, R249). -/
def State.returnOk (s : State) : State := s.finish .ok

/-- `raise InitSeqFail(idx, opcode, e)` with `init_status <- Failed` (41_init_sequencer.md R168). The panel is left undefined
(20_memory.md R88). -/
def State.initSeqFail (op : Byte) (e : XErr) (s : State) : State :=
  ({ s with initStatus := .failed, panel := s.panel.abandon }).raise (.initSeqFail s.idx op e)

/-- `raise XportFail(e)` (60_exceptions.md R243). -/
def State.xportFail (e : XErr) (s : State) : State := s.raise (.xportFail e)

/-- The phases of INIT. -/
def Phase.isInit : Phase → Bool
  | .iRstLow => true
  | .iRstSettle => true
  | .iIssue => true
  | .iWait => true
  | .iDelay => true
  | _ => false

/-- The wait phase that an issue phase leads to (40_transaction_encoder.md R149). -/
def Phase.waitPhase : Phase → Phase
  | .iIssue => .iWait
  | .fCasetIssue => .fCasetWait
  | .fRasetIssue => .fRasetWait
  | .fPixIssue => .fPixWait
  | p => p

/-- The invoker takes a failed transaction of opcode `op`: INIT raises InitSeqFail, FLUSH raises XportFail
(40_transaction_encoder.md R140, 60_exceptions.md R244). -/
def State.failTransaction (op : Byte) (e : XErr) (s : State) : State :=
  if s.phase.isInit then s.initSeqFail op e else s.xportFail e

/-- The request that a header and a data phase make (30_encoding.md R100, 40_transaction_encoder.md R140, R145). -/
def Req.ofHeader (h : Header) (data : List Byte) (lines : DataLines) : Req where
  marker := headerMarker h
  cmdBits := 8
  cmdLines := 1
  addr := headerAddr h
  addrBits := 24
  addrLines := 1
  data := data
  dataLines := lines

/-- `Submit(req)` and what the issue step does with the answer (40_transaction_encoder.md R149): accepted, the request is in
flight and the controller waits; refused, the invoker fails with the transport's value. -/
def State.submit (op : Byte) (r : Req) (s : State) : State :=
  match s.submitAns with
  | .accepted =>
    ({ s with inflight := some r, phase := s.phase.waitPhase, panel := s.panel.sending s.now }).log
      (.submitted r .accepted s.now)
  | .refused e => (s.log (.submitted r (.refused e) s.now)).failTransaction op e

/-- The issue step of Transact (40_transaction_encoder.md R149) with its precondition: `hdr` written, the request
submitted. -/
def transactIssue (marker op : Byte) (data : List Byte) (lines : DataLines) (s : State) : Result1 :=
  if s.handle = none ∨ s.inflight ≠ none then .refused .submitPrecondition
  else
    let h := frameHeader marker op
    .next (State.submit op (Req.ofHeader h data lines) { s with hdr := h })

/-- `AwaitDone()`, the wait step of Transact (40_transaction_encoder.md R149): with no signal the controller waits
(60_exceptions.md R253); a signal is consumed, `inflight` cleared, and `k` goes on. -/
def awaitDone (s : State) (k : Completion → State → Result1) : Result1 :=
  match s.completion with
  | none => .next s
  | some c =>
    match s.inflight with
    | none => .refused .spuriousCompletion
    | some r => k c (({ s with inflight := none, completion := none }).log (.completed r c s.now))

/-- `SrcRead(i)` (00_scope.md R14, 20_memory.md R60 (3)). -/
def State.srcRead (s : State) (i : Nat) : Option Half :=
  match s.src with
  | none => none
  | some l => l[i]?

/-- One byte of the scratch buffer as the transport reads it: what was written, else a free value (10_state.md R37, U13). -/
def Scratch.read (b : Scratch) (i : Nat) : Byte :=
  match Memory.read b.bytes i with
  | some v => v
  | none => Config.freshScratchByte b.serial i

/-- The whole buffer as a byte stream (20_memory.md R69). -/
def Scratch.payload (b : Scratch) : List Byte := (List.range b.size).map b.read

/-- `MemWrite(SCRATCH + a, 2, bytes)` (43_color_permutation.md R210). -/
def Scratch.write (b : Scratch) (a : Nat) (vs : List Byte) : Scratch :=
  { b with bytes := Memory.writeList b.bytes a vs }

end Sys2Proof.Machine
end

