-- ==== Sys2Proof/Machine/Encoder.lean ====
section
/-! DEFINITION. The Transaction Encoder (40_transaction_encoder.md): the command-write and color-write paths, and the
meanings of CMDWR, RAMWR and RAMWRC. The meaning of a frame operation is the issue step of its transaction; the wait step
is the controller's (R149). Log entry 10. -/

namespace Sys2Proof.Machine

/-- A unit operation runs only in the phase that invokes it (00_scope.md R3). -/
def inPhase (p : Phase) (s : State) (k : State → Result1) : Result1 :=
  if s.phase = p then k s else .refused .notInvocable

/-- The command-write path (40_transaction_encoder.md R140): load the parameter buffer, send its bytes on one line. More than
36 bytes are refused (R141). -/
def commandWrite (op : Byte) (ps : List Byte) (s : State) : Result1 :=
  if maxParams < ps.length then .refused .paramsTooLong
  else transactIssue s.cfg.markerCmd op (s.loadParams ps).params .single (s.loadParams ps)

/-- The color-write path, PIXWR (40_transaction_encoder.md R145): the whole payload in one transaction on four lines, under
the configured `OP_PIXWR`. -/
def pixelWrite (op : Byte) (bytes : List Byte) (s : State) : Result1 :=
  if bytes = [] ∨ bytes.length % 2 ≠ 0 then .refused .badPayload
  else if s.cfg.opPixwr ≠ op then .refused .pixelOpcodeNotConfigured
  else transactIssue s.cfg.markerPix op bytes .quad s

/-- CMDWR (40_transaction_encoder.md R140): invoked by the Init Sequencer and by SETWIN. -/
def execCmdwr (op : Byte) (ps : List Byte) (s : State) : Result1 :=
  match s.phase with
  | .iIssue => commandWrite op ps s
  | .fCasetIssue => commandWrite op ps s
  | .fRasetIssue => commandWrite op ps s
  | _ => .refused .notInvocable

/-- RAMWR (40_transaction_encoder.md R146). -/
def execRamwr (bytes : List Byte) (s : State) : Result1 := inPhase .fPixIssue s (pixelWrite 0x2C bytes)

/-- RAMWRC (40_transaction_encoder.md R147). -/
def execRamwrc (bytes : List Byte) (s : State) : Result1 := inPhase .fPixIssue s (pixelWrite 0x3C bytes)

end Sys2Proof.Machine
end

