-- ==== Sys2Proof/Machine/InitSeq.lean ====
section
/-! DEFINITION. The Init Sequencer (41_init_sequencer.md): INIT, the meanings of the table's entries, and the controller's
steps in INIT's phases (RSTPULSE R162, DELAY R163, the replay R164). -/

namespace Sys2Proof.Machine

/-- The host port accepts an operation (10_state.md R43): the request leaves the port, `valid` clears. -/
def State.accept (op : Instr) (s : State) : State :=
  ({ s with hostPort := none, valid := false }).log (.accepted op s.now)

/-- RSTPULSE's first step (41_init_sequencer.md R162). -/
def State.startPulse (s : State) : State := ((s.driveRst .low).markTime).goto .iRstLow

/-- INIT (41_init_sequencer.md R160, R161): accepted only in `IDLE` (else the request waits); a null handle is rejected
before any activity; a configuration that is not one of this block is refused (R166, R10); otherwise the handle is stored,
`idx` is 0, and the reset pulse or the replay starts. Without a pulse the observer no longer knows the panel (R169,
20_memory.md R88). -/
def execInit (rstCfg : Bool) (xport : Option XHandle) (s : State) : Result1 :=
  if s.phase ≠ .idle then .next s
  else
    let t := { s.accept (.init rstCfg xport) with rstCfg := rstCfg }
    match xport with
    | none => .next (t.raise (.invalidArg .nullHandle))
    | some h =>
      if s.cfg.wf = false then .refused .illFormedConfig
      else
        let u := { t with handle := some h, idx := 0 }
        .next (if rstCfg then u.startPulse else ({ u with panel := u.panel.abandon }).goto .iIssue)

/-- A table entry is a command write of the entry's opcode and bytes, issued in `I_ISSUE` (41_init_sequencer.md R164). -/
def initEntry (op : Byte) (ps : List Byte) (s : State) : Result1 := inPhase .iIssue s (commandWrite op ps)

/-- COLMOD (41_init_sequencer.md R170). -/
def execColmod (ps : List Byte) (s : State) : Result1 := initEntry s.cfg.opColmod ps s

/-- MADCTL (41_init_sequencer.md R171). -/
def execMadctl (ps : List Byte) (s : State) : Result1 := initEntry s.cfg.opMadctl ps s

/-- TEON (41_init_sequencer.md R172). -/
def execTeon (ps : List Byte) (s : State) : Result1 := initEntry s.cfg.opTeon ps s

/-- INVON (41_init_sequencer.md R173). -/
def execInvon (ps : List Byte) (s : State) : Result1 := initEntry s.cfg.opInvon ps s

/-- SLPOUT (41_init_sequencer.md R174); the wait after it is its entry's post-delay, `stepInitWait`. -/
def execSlpout (ps : List Byte) (s : State) : Result1 := initEntry s.cfg.opSlpout ps s

/-- DISPON (41_init_sequencer.md R175). -/
def execDispon (ps : List Byte) (s : State) : Result1 := initEntry s.cfg.opDispon ps s

/-- VENDOR (41_init_sequencer.md R176). -/
def execVendor (op : Byte) (ps : List Byte) (s : State) : Result1 := initEntry op ps s

/-- The entry at `idx` (41_init_sequencer.md R164, 20_memory.md R89). -/
def State.entry (s : State) : Option CommandEntry := s.cfg.initTable[s.idx]?

/-- `idx <- idx + 1`, then the next entry, or finish with `init_status <- Ok` (41_init_sequencer.md R164). -/
def State.nextEntry (s : State) : State :=
  let t := { s with idx := s.idx + 1 }
  if t.idx < t.cfg.initTable.length then t.goto .iIssue
  else ({ t with initStatus := .ok }).returnOk

/-- `I_RST_LOW` (41_init_sequencer.md R162): after `T_RST_LOW_MS` the line goes high. -/
def stepRstLow (s : State) : Result1 :=
  .next (if s.elapsed s.cfg.tRstLow then ((s.driveRst .high).markTime).goto .iRstSettle else s)

/-- `I_RST_SETTLE` (41_init_sequencer.md R162): after `T_RST_SETTLE_MS` the replay starts. -/
def stepRstSettle (s : State) : Result1 :=
  .next (if s.elapsed s.cfg.tRstSettle then s.goto .iIssue else s)

/-- `I_WAIT` (41_init_sequencer.md R164, R168): done, the post-delay starts if there is one; failed, INIT fails. -/
def stepInitWait (s : State) : Result1 :=
  awaitDone s fun c t =>
    match t.entry with
    | none => .fault .tableIndex
    | some e =>
      match c with
      | .done => .next (if e.postDelay ≠ 0 then t.markTime.goto .iDelay else t.nextEntry)
      | .failed x => .next (t.initSeqFail e.opcode x)

/-- `I_DELAY` (41_init_sequencer.md R163, R164): enabled when the entry's post-delay has elapsed. -/
def stepInitDelay (s : State) : Result1 :=
  match s.entry with
  | none => .fault .tableIndex
  | some e => .next (if s.elapsed e.postDelay then s.nextEntry else s)

end Sys2Proof.Machine
end

