-- ==== Sys2Proof/Machine/WindowSet.lean ====
section
/-! DEFINITION. The Addressing Protocol engine (42_address_window.md): the meanings of CASET and RASET, and the wait steps
of SETWIN. -/

namespace Sys2Proof.Machine

/-- One address-set frame (42_address_window.md R190, R193, R194): four payload bytes, the end inclusive. A side with no
positive extent is refused (R195). -/
def addressSet (p : Phase) (op : Byte) (start stop : Half) (s : State) : Result1 :=
  if stop.toNat ≤ start.toNat then .refused .emptySide
  else inPhase p s (commandWrite op (sidePayload start stop))

/-- CASET (42_address_window.md R193). -/
def execCaset (x0 x1 : Half) (s : State) : Result1 := addressSet .fCasetIssue s.cfg.opCaset x0 x1 s

/-- RASET (42_address_window.md R194). -/
def execRaset (y0 y1 : Half) (s : State) : Result1 := addressSet .fRasetIssue s.cfg.opRaset y0 y1 s

/-- The wait step of an address set (42_address_window.md R190, R196): done, on to `p`; failed, FLUSH fails. -/
def stepAddressWait (p : Phase) (s : State) : Result1 :=
  awaitDone s fun c t =>
    match c with
    | .done => .next (t.goto p)
    | .failed e => .next (t.xportFail e)

/-- `F_CASET_WAIT`. -/
def stepCasetWait (s : State) : Result1 := stepAddressWait .fRasetIssue s

/-- `F_RASET_WAIT`. -/
def stepRasetWait (s : State) : Result1 := stepAddressWait .fAlloc s

end Sys2Proof.Machine
end

