-- ==== Sys2Proof/Machine/Flush.lean ====
section
/-! DEFINITION. The Flush Pipeline controller (44_flush_pipeline.md): FLUSH, the scratch buffer, PERMBUF
(43_color_permutation.md R210) one pixel a step, and the completion of the pixel write. -/

namespace Sys2Proof.Machine

/-- FLUSH's validation (44_flush_pipeline.md R221 to R223), in the order of R220; the first cause that applies. -/
def flushCause (s : State) (w : Window) (src : Option (List Half)) : Option Cause :=
  match s.handle, src with
  | some _, some pixels =>
    if w.zeroArea then some .zeroArea
    else if w.outOfPanel s.cfg then some .outOfPanel
    else if pixels.length ≠ w.npix then some .lenMismatch
    else none
  | _, _ => some .nullHandle

/-- FLUSH (44_flush_pipeline.md R220): accepted only in `IDLE` (else the request waits); validated before any bus activity; a
transfer over the transport's maximum is refused (93_implementation_defined.md U4); otherwise the operands are latched and
SETWIN starts. A rejected FLUSH leaves `win`, `src` and `pcount`: the model's choice (log entry 14). -/
def execFlush (x0 y0 x1 y1 : Half) (src : Option (List Half)) (s : State) : Result1 :=
  if s.phase ≠ .idle then .next s
  else
    let w : Window := ⟨x0, y0, x1, y1⟩
    let t := s.accept (.flush x0 y0 x1 y1 src)
    match flushCause s w src with
    | some c => .next (t.raise (.invalidArg c))
    | none =>
      if s.cfg.maxXferBytes < 2 * w.npix then .refused .transferTooLarge
      else .next ({ t with win := w, src := src, pcount := 0 }.goto .fCasetIssue)

/-- `F_ALLOC` (44_flush_pipeline.md R225): ask for exactly `2 * npix` bytes. -/
def stepAlloc (s : State) : Result1 :=
  let n := 2 * s.win.npix
  let t := s.log (.allocated n s.allocAns)
  match s.allocAns with
  | .ok => .next ({ t with scratch := some ⟨n, s.allocs, []⟩, allocs := s.allocs + 1, pcount := 0 }.goto .fPerm)
  | .noMem => .next (t.raise .allocFail)

/-- `F_PERM` (44_flush_pipeline.md R226, 43_color_permutation.md R210): the next pixel, in rising order, through `px` and T
into its place in the scratch buffer; when all are done, on to the pixel write. Log entry 9. `px` holds the pixel before correction,
and keeps the last one: the model's choice (log entry 27). -/
def stepPerm (s : State) : Result1 :=
  if s.win.npix ≤ s.pcount then .next (s.goto .fPixIssue)
  else
    match s.srcRead s.pcount with
    | none => .fault .srcIndex
    | some v =>
      match s.scratch with
      | none => .fault .scratchIndex
      | some b =>
        if b.size < 2 * s.pcount + 2 then .fault .scratchIndex
        else
          .next { s with
            px := v
            scratch := some (b.write (2 * s.pcount) (pixelBytes s.cfg.pixOrder (perm v)))
            pcount := s.pcount + 1 }

/-- `F_PIX_WAIT` (44_flush_pipeline.md R227, R228): the buffer is released only after the completion signal; then the
result. -/
def stepPixWait (s : State) : Result1 :=
  awaitDone s fun c t =>
    match c with
    | .done => .next t.returnOk
    | .failed e => .next (t.xportFail e)

end Sys2Proof.Machine
end

