-- ==== Sys2Proof/Machine/Control.lean ====
section
/-! DEFINITION. What the controller fetches in each phase, the environment's moves, and how an operation is placed where the
controller fetches. -/

namespace Sys2Proof.Machine

/-- What the controller does next, by its phase: run an operation, or go on with the one in progress. -/
inductive Fetched where
  /-- An operation to run: from the host port, the init table, or the pipeline. -/
  | op (i : Instr)
  /-- The access that the fetch needs does not exist. -/
  | stop (f : Fault)
  /-- Nothing to fetch in this phase. -/
  | nothing
deriving DecidableEq, Repr

/-- The fetch. `IDLE`: the host port (10_state.md R43). `I_ISSUE`: `INIT_TABLE[idx]` (41_init_sequencer.md R164). The
pipeline's issue phases: CASET, RASET of the window latch, then the pixel write of the whole scratch buffer under
`OP_PIXWR` (42_address_window.md R190, 44_flush_pipeline.md R227, 00_scope.md R12). -/
def State.fetch (s : State) : Fetched :=
  match s.phase with
  | .idle =>
    match s.hostPort with
    | none => .nothing
    | some p => .op (decodeHost p)
  | .iIssue =>
    match s.entry with
    | none => .stop .tableIndex
    | some e => .op (s.cfg.entryInstr s.idx e)
  | .fCasetIssue => .op (.caset s.win.x0 s.win.x1)
  | .fRasetIssue => .op (.raset s.win.y0 s.win.y1)
  | .fPixIssue =>
    match s.scratch with
    | none => .stop .scratchIndex
    | some b => .op (if s.cfg.opPixwr = 0x3C then .ramwrc b.payload else .ramwr b.payload)
  | _ => .nothing

/-- The controller's step in a phase that fetches nothing. -/
def State.proceed (s : State) : Result1 :=
  match s.phase with
  | .iRstLow => stepRstLow s
  | .iRstSettle => stepRstSettle s
  | .iWait => stepInitWait s
  | .iDelay => stepInitDelay s
  | .fCasetWait => stepCasetWait s
  | .fRasetWait => stepRasetWait s
  | .fAlloc => stepAlloc s
  | .fPerm => stepPerm s
  | .fPixWait => stepPixWait s
  | .idle => .next s
  | .iIssue => .next s
  | .fCasetIssue => .next s
  | .fRasetIssue => .next s
  | .fPixIssue => .next s

/-- `por` (10_state.md R45, R47): every element of the block takes its reset value; the configuration, the environment and
the trace stay; of an operation it cuts short the observer no longer knows what the panel has (the spec is silent). Log
entry 18. -/
def State.powerOnReset (s : State) : State :=
  { State.reset with
    cfg := s.cfg
    now := s.now
    hostPort := s.hostPort
    submitAns := s.submitAns
    allocAns := s.allocAns
    panel :=
      if s.phase = .idle ∧ s.inflight = none then s.panel.lineReleased s.now else s.panel.interrupted s.now
    allocs := s.allocs
    moves := s.moves
    trace := s.trace }

/-- What the panel has of a frame when its completion is signalled. -/
def Panel.settle (c : Config) (p : Panel) (r : Req) (o : Completion) (t : Nat) : Panel :=
  match o with
  | .done => p.receive c r t
  | .failed _ => p.disturbed c r t

/-- One move of an agent other than the controller (20_memory.md R80 to R83). -/
def environment (m : Move) (s : State) : Result1 :=
  match m with
  | .block => .next s
  | .clock dt => .next { s with now := s.now + dt }
  | .host p =>
    match s.hostPort with
    | none => .next { s with hostPort := some p }
    | some _ => .refused .hostPortTaken
  | .answer a => .next { s with submitAns := a }
  | .complete c =>
    match s.inflight, s.completion with
    | some r, none => .next { s with completion := some c, panel := Panel.settle s.cfg s.panel r c s.now }
    | _, _ => .refused .spuriousCompletion
  | .allocator a => .next { s with allocAns := a }
  | .por => .next s.powerOnReset

/-- A transport handle to run with: the stored one, else some handle. -/
def State.attached (s : State) : State :=
  { s with moves := [], handle := some (s.handle.getD ⟨0⟩), inflight := none, completion := none }

/-- The init table whose terminal entry in role `r` carries `ps`, the others no bytes, preceded by `front`. -/
def placedTable (c : Config) (front : List CommandEntry) (r : Nat) (ps : List Byte) : List CommandEntry :=
  front ++ c.terminalEntries (fun k => if k = r then ps else []) (fun k => if k = 4 then c.tSlpout else 0)

/-- Terminal role `r` with bytes `ps`, as the entry that `I_ISSUE` fetches next. -/
def State.placeTerminal (r : Nat) (ps : List Byte) (s : State) : State :=
  { s.attached with phase := .iIssue, idx := r, cfg := { s.cfg with initTable := placedTable s.cfg [] r ps } }

/-- A vendor entry, as the entry that `I_ISSUE` fetches next. -/
def State.placeVendor (op : Byte) (ps : List Byte) (s : State) : State :=
  { s.attached with
    phase := .iIssue, idx := 0, cfg := { s.cfg with initTable := placedTable s.cfg [⟨op, ps, 0⟩] 6 [] } }

/-- A payload in the scratch buffer, with the opcode it is sent under. -/
def State.placePixels (op : Byte) (bs : List Byte) (s : State) : State :=
  { s.attached with
    phase := .fPixIssue
    cfg := { s.cfg with opPixwr := op }
    scratch := some ⟨bs.length, s.allocs, Memory.writeList [] 0 bs⟩ }

/-- The operation placed where the controller fetches next. Log entry 13. -/
def State.placeInstr (i : Instr) (s : State) : State :=
  match i with
  | .cmdwr op ps => s.placeVendor op ps
  | .caset x0 x1 => { s.attached with phase := .fCasetIssue, win := { s.win with x0 := x0, x1 := x1 } }
  | .raset y0 y1 => { s.attached with phase := .fRasetIssue, win := { s.win with y0 := y0, y1 := y1 } }
  | .ramwr bs => s.placePixels 0x2C bs
  | .ramwrc bs => s.placePixels 0x3C bs
  | .colmod ps => s.placeTerminal 0 ps
  | .madctl ps => s.placeTerminal 1 ps
  | .teon ps => s.placeTerminal 2 ps
  | .invon ps => s.placeTerminal 3 ps
  | .slpout ps => s.placeTerminal 4 ps
  | .dispon ps => s.placeTerminal 5 ps
  | .vendor op ps => s.placeVendor op ps
  | .init r x => { s with moves := [], phase := .idle, hostPort := some (encodeInit r x) }
  | .flush x0 y0 x1 y1 src => { s with moves := [], phase := .idle, hostPort := some (encodeFlush x0 y0 x1 y1 src) }

end Sys2Proof.Machine
end

