-- ==== Sys2Proof/Machine/Dispatch.lean ====
section
/-! DEFINITION. The meaning of each operation: one arm per constructor of Instr. -/

namespace Sys2Proof.Machine

def exec (i : Instr) (s : State) : Host.Outcome State Fault Refusal :=
  match i with
  | .cmdwr op params => Sys2Proof.Machine.execCmdwr op params s
  | .caset x0 x1 => Sys2Proof.Machine.execCaset x0 x1 s
  | .raset y0 y1 => Sys2Proof.Machine.execRaset y0 y1 s
  | .ramwr bytes => Sys2Proof.Machine.execRamwr bytes s
  | .ramwrc bytes => Sys2Proof.Machine.execRamwrc bytes s
  | .colmod params => Sys2Proof.Machine.execColmod params s
  | .madctl params => Sys2Proof.Machine.execMadctl params s
  | .teon params => Sys2Proof.Machine.execTeon params s
  | .invon params => Sys2Proof.Machine.execInvon params s
  | .slpout params => Sys2Proof.Machine.execSlpout params s
  | .dispon params => Sys2Proof.Machine.execDispon params s
  | .vendor op params => Sys2Proof.Machine.execVendor op params s
  | .init rstCfg xport => Sys2Proof.Machine.execInit rstCfg xport s
  | .flush x0 y0 x1 y1 src => Sys2Proof.Machine.execFlush x0 y0 x1 y1 src s

end Sys2Proof.Machine
end

