-- ==== Sys2Proof/Machine/Step.lean ====
section
/-! DEFINITION. The step: one agent moves (60_exceptions.md R263). -/

namespace Sys2Proof.Machine

/-- One controller step: run the operation that is fetched, else go on with the one in progress. -/
def control (s : State) : Host.Outcome State Fault Refusal :=
  match s.fetch with
  | .op i => exec i s
  | .stop f => .fault f
  | .nothing => s.proceed

/-- One step. `moves` says which agent; with no move left the controller moves. Log entry 8. -/
def step (s : State) : Host.Outcome State Fault Refusal :=
  match s.moves with
  | [] => control s
  | .block :: ms => control { s with moves := ms }
  | m :: ms => environment m { s with moves := ms }

/-- The operation of a table word placed where the step fetches its next one. -/
def State.withFetchWord (s : State) (nbits w : Nat) : State :=
  match decodeTableWord nbits w with
  | none => s
  | some i => s.placeInstr i

end Sys2Proof.Machine
end

