-- ==== Sys2Proof/Machine/Flags.lean ====
section
/-! DEFINITION. The status bits (10_state.md R41) and the numeric codes of the result record (60_exceptions.md R241 to
R245). -/

namespace Sys2Proof.Machine

/-- `busy = (phase ≠ IDLE)` (10_state.md R41). -/
def State.busy (s : State) : Bool := decide (s.phase ≠ .idle)

/-- `err = valid and (result ≠ OK)` (10_state.md R41). -/
def State.err (s : State) : Bool := s.valid && decide (s.result ≠ .ok)

/-- Sub-codes of InvalidArg (60_exceptions.md R241). -/
def Cause.code : Cause → Nat
  | .nullHandle => 1
  | .zeroArea => 2
  | .outOfPanel => 3
  | .lenMismatch => 4

/-- Codes of the result classes (60_exceptions.md R241 to R245). -/
def Result.code : Result → Nat
  | .ok => 0
  | .invalidArg _ => 1
  | .allocFail => 2
  | .xportFail _ => 3
  | .initSeqFail _ _ _ => 4

/-- The `cause` field, where the class names it. -/
def Result.cause : Result → Option Cause
  | .invalidArg c => some c
  | _ => none

/-- The `xerr` field, where the class names it (60_exceptions.md R243, R244). -/
def Result.xerr : Result → Option XErr
  | .xportFail e => some e
  | .initSeqFail _ _ e => some e
  | _ => none

end Sys2Proof.Machine
end

