-- ==== Sys2Proof/Machine/Wire.lean ====
section
/-! DEFINITION. Below the request record: the frame as bytes (30_encoding.md R108) and its bit-level serialisation on the
QSPI lines (20_memory.md R68, the spec's decision D5, D6). Log entry 26. -/

namespace Sys2Proof.Machine

/-- The frame as a byte string, `[marker, addr] ++ data` in wire order (30_encoding.md R108). -/
def Req.frame (r : Req) : List Byte :=
  r.marker :: r.addr.extractLsb' 16 8 :: r.addr.extractLsb' 8 8 :: r.addr.extractLsb' 0 8 :: r.data

/-- One clock of a transaction: a bit on IO0, or a symbol on IO3..IO0. -/
inductive Clock where
  | io0 (bit : Bool)
  | io3to0 (symbol : BitVec 4)
deriving DecidableEq, Repr

/-- The bits of a value, most significant first. -/
def bitsMsbFirst {w : Nat} (v : BitVec w) : List Bool := (List.range w).map v.getMsbD

/-- One data byte: 8 clocks on one line, or 2 clocks on four lines with the high nibble first. -/
def byteClocks (l : DataLines) (b : Byte) : List Clock :=
  match l with
  | .single => (bitsMsbFirst b).map .io0
  | .quad => [.io3to0 (b.extractLsb' 4 4), .io3to0 (b.extractLsb' 0 4)]

/-- One transaction, clock by clock: command phase, address phase, data phase. -/
def Req.clocks (r : Req) : List Clock :=
  (bitsMsbFirst r.marker).map .io0 ++ (bitsMsbFirst r.addr).map .io0 ++ r.data.flatMap (byteClocks r.dataLines)

end Sys2Proof.Machine
end

