-- ==== Sys2Proof/Safety.lean ====
section
/-! DEFINITION. The terms claims use: what a trace of a correct run looks like (41_init_sequencer.md R160 to R168,
44_flush_pipeline.md R220 to R229, 70_reset_and_hazards.md R290 to R295), the invariant of the machine, the scripts of a
cooperating environment, and the change of the opaque values. -/

namespace Sys2Proof.Machine

/-- The request of a command write (30_encoding.md R100, R102): marker, 24-bit address with the opcode in bits 15:8, the
parameter bytes on one line. -/
def commandReq (c : Config) (op : Byte) (params : List Byte) : Req :=
  ⟨c.markerCmd, 8, 1, 0#8 ++ op ++ 0#8, 24, 1, params, .single⟩

/-- The request of a color write (30_encoding.md R100, R103): the payload on four lines. -/
def colorReq (c : Config) (op : Byte) (bytes : List Byte) : Req :=
  ⟨c.markerPix, 8, 1, 0#8 ++ op ++ 0#8, 24, 1, bytes, .quad⟩

/-- The request of a table entry (41_init_sequencer.md R164, 40_transaction_encoder.md R140). -/
def entryReq (c : Config) (e : CommandEntry) : Req := commandReq c e.opcode e.parameters

/-- The request of a window's column address set (42_address_window.md R193). -/
def casetReq (c : Config) (w : Window) : Req := commandReq c c.opCaset (sidePayload w.x0 w.x1)

/-- The request of a window's row address set (42_address_window.md R194). -/
def rasetReq (c : Config) (w : Window) : Req := commandReq c c.opRaset (sidePayload w.y0 w.y1)

/-- The request of a pixel write of the given source pixels (40_transaction_encoder.md R145, 30_encoding.md R107). -/
def pixelReq (c : Config) (pixels : List Half) : Req := colorReq c c.opPixwr (pixelPayload c.pixOrder pixels)

/-- What an accepted `Submit` of a request with header `h` does (40_transaction_encoder.md R149): the header register, the
slot, the wait phase, the event, and what the observer notes of the panel; nothing else. -/
def State.sent (h : Header) (r : Req) (s : State) : State :=
  { s with
    hdr := h
    inflight := some r
    phase := s.phase.waitPhase
    panel := s.panel.sending s.now
    trace := .submitted r .accepted s.now :: s.trace }

/-- The operation FLUSH on a window and a buffer. -/
def flushOp (w : Window) (src : Option (List Half)) : Instr := .flush w.x0 w.y0 w.x1 w.y1 src

/-- `Replayed c n due tr`: the trace `tr` (newest first) ends in an INIT that has completed entries `0 .. n-1`, each submitted
once, in order, after the floor before it; the next event may come from time `due` on (41_init_sequencer.md R162 to R165,
70_reset_and_hazards.md R290 to R292). -/
inductive Replayed (c : Config) : Nat → Nat → List Event → Prop where
  | unpulsed (h : XHandle) (t : Nat) (older : List Event) :
      Replayed c 0 t (.accepted (.init false (some h)) t :: older)
  | pulsed (h : XHandle) (t t0 t1 : Nat) (older : List Event) (low : t0 + c.tRstLow ≤ t1) :
      Replayed c 0 (t1 + c.tRstSettle)
        (.rstDrive .high t1 :: .rstDrive .low t0 :: .accepted (.init true (some h)) t :: older)
  | entry (n due ts tc : Nat) (e : CommandEntry) (tr : List Event) (before : Replayed c n due tr)
      (at_n : c.initTable[n]? = some e) (floor : due ≤ ts) (order : ts ≤ tc) :
      Replayed c (n + 1) (tc + e.postDelay)
        (.completed (entryReq c e) .done tc :: .submitted (entryReq c e) .accepted ts :: tr)

/-- `InitEnded c r t tr`: an INIT whose trace is `tr` returns `r` at time `t` (41_init_sequencer.md R160, R168, R177). -/
inductive InitEnded (c : Config) : Result → Nat → List Event → Prop where
  | rejected (rst : Bool) (ta t : Nat) (older : List Event) :
      InitEnded c (.invalidArg .nullHandle) t (.accepted (.init rst none) ta :: older)
  | ok (due t : Nat) (tr : List Event) (all : Replayed c c.initTable.length due tr) (floor : due ≤ t) :
      InitEnded c .ok t tr
  | refused (k due ts t : Nat) (e : CommandEntry) (x : XErr) (tr : List Event) (before : Replayed c k due tr)
      (at_k : c.initTable[k]? = some e) (floor : due ≤ ts) :
      InitEnded c (.initSeqFail k e.opcode x) t (.submitted (entryReq c e) (.refused x) ts :: tr)
  | failed (k due ts tc t : Nat) (e : CommandEntry) (x : XErr) (tr : List Event) (before : Replayed c k due tr)
      (at_k : c.initTable[k]? = some e) (floor : due ≤ ts) :
      InitEnded c (.initSeqFail k e.opcode x) t
        (.completed (entryReq c e) (.failed x) tc :: .submitted (entryReq c e) .accepted ts :: tr)

/-- The cause that a window and a buffer give on their own (44_flush_pipeline.md R222, R223). -/
def windowCause (c : Config) (w : Window) (pixels : List Half) : Option Cause :=
  if w.zeroArea then some .zeroArea
  else if w.outOfPanel c then some .outOfPanel
  else if pixels.length ≠ w.npix then some .lenMismatch
  else none

/-- `Flushing c w px n tr`: the trace `tr` ends in a FLUSH of window `w` and pixels `px` that has done `n` of: the column
address set, the row address set, the allocation (44_flush_pipeline.md R220, 20_memory.md R78). -/
inductive Flushing (c : Config) (w : Window) (px : List Half) : Nat → List Event → Prop where
  | begun (t : Nat) (older : List Event) (valid : windowCause c w px = none) :
      Flushing c w px 0 (.accepted (flushOp w (some px)) t :: older)
  | columns (ts tc : Nat) (tr : List Event) (before : Flushing c w px 0 tr) :
      Flushing c w px 1 (.completed (casetReq c w) .done tc :: .submitted (casetReq c w) .accepted ts :: tr)
  | rows (ts tc : Nat) (tr : List Event) (before : Flushing c w px 1 tr) :
      Flushing c w px 2 (.completed (rasetReq c w) .done tc :: .submitted (rasetReq c w) .accepted ts :: tr)
  | buffer (tr : List Event) (before : Flushing c w px 2 tr) :
      Flushing c w px 3 (.allocated (2 * w.npix) .ok :: tr)

/-- `FlushEnded c r tr`: a FLUSH whose trace is `tr` returns `r`: the rows of 44_flush_pipeline.md R229. -/
inductive FlushEnded (c : Config) : Result → List Event → Prop where
  | nullHandle (w : Window) (src : Option (List Half)) (t : Nat) (older : List Event) :
      FlushEnded c (.invalidArg .nullHandle) (.accepted (flushOp w src) t :: older)
  | invalid (w : Window) (px : List Half) (cause : Cause) (t : Nat) (older : List Event)
      (why : windowCause c w px = some cause) :
      FlushEnded c (.invalidArg cause) (.accepted (flushOp w (some px)) t :: older)
  | casetRefused (w : Window) (px : List Half) (e : XErr) (ts : Nat) (tr : List Event) (before : Flushing c w px 0 tr) :
      FlushEnded c (.xportFail e) (.submitted (casetReq c w) (.refused e) ts :: tr)
  | casetFailed (w : Window) (px : List Half) (e : XErr) (ts tc : Nat) (tr : List Event) (before : Flushing c w px 0 tr) :
      FlushEnded c (.xportFail e)
        (.completed (casetReq c w) (.failed e) tc :: .submitted (casetReq c w) .accepted ts :: tr)
  | rasetRefused (w : Window) (px : List Half) (e : XErr) (ts : Nat) (tr : List Event) (before : Flushing c w px 1 tr) :
      FlushEnded c (.xportFail e) (.submitted (rasetReq c w) (.refused e) ts :: tr)
  | rasetFailed (w : Window) (px : List Half) (e : XErr) (ts tc : Nat) (tr : List Event) (before : Flushing c w px 1 tr) :
      FlushEnded c (.xportFail e)
        (.completed (rasetReq c w) (.failed e) tc :: .submitted (rasetReq c w) .accepted ts :: tr)
  | noMem (w : Window) (px : List Half) (tr : List Event) (before : Flushing c w px 2 tr) :
      FlushEnded c .allocFail (.allocated (2 * w.npix) .noMem :: tr)
  | pixelsRefused (w : Window) (px : List Half) (e : XErr) (ts tf : Nat) (tr : List Event)
      (before : Flushing c w px 3 tr) :
      FlushEnded c (.xportFail e) (.freed tf :: .submitted (pixelReq c px) (.refused e) ts :: tr)
  | pixelsFailed (w : Window) (px : List Half) (e : XErr) (ts tc tf : Nat) (tr : List Event)
      (before : Flushing c w px 3 tr) :
      FlushEnded c (.xportFail e)
        (.freed tf :: .completed (pixelReq c px) (.failed e) tc :: .submitted (pixelReq c px) .accepted ts :: tr)
  | ok (w : Window) (px : List Half) (ts tc tf : Nat) (tr : List Event) (before : Flushing c w px 3 tr) :
      FlushEnded c .ok
        (.freed tf :: .completed (pixelReq c px) .done tc :: .submitted (pixelReq c px) .accepted ts :: tr)

/-- The phases in which one transaction is in flight. -/
def Phase.isWait : Phase → Bool
  | .iWait => true
  | .fCasetWait => true
  | .fRasetWait => true
  | .fPixWait => true
  | _ => false

/-- The phases in which a scratch buffer is held (10_state.md R38). -/
def Phase.holdsScratch : Phase → Bool
  | .fPerm => true
  | .fPixIssue => true
  | .fPixWait => true
  | _ => false

/-- The scratch buffer `b` of a window of `npix` pixels holds the corrected bytes of the first `n` source pixels and nothing
else (43_color_permutation.md R210, 20_memory.md R69, R70). -/
structure ScratchHolds (o : PixOrder) (npix n : Nat) (px : List Half) (b : Scratch) : Prop where
  size    : b.size = 2 * npix
  count   : n ≤ npix
  form    : Memory.wf b.bytes = true
  content : ∀ i, Memory.read b.bytes i = (pixelPayload o (px.take n))[i]?

/-- Where the operation in progress stands, phase by phase: its trace so far and the registers that go with it. -/
def State.progress (s : State) : Prop :=
  match s.phase with
  | .idle => True
  | .iRstLow => ∃ h t older, s.trace = .rstDrive .low s.tMark :: .accepted (.init true (some h)) t :: older ∧ s.idx = 0
  | .iRstSettle => Replayed s.cfg 0 (s.tMark + s.cfg.tRstSettle) s.trace ∧ s.idx = 0
  | .iIssue => ∃ e due, s.entry = some e ∧ Replayed s.cfg s.idx due s.trace ∧ due ≤ s.now
  | .iWait => ∃ e ts due tr, s.entry = some e ∧ s.inflight = some (entryReq s.cfg e) ∧
      s.trace = .submitted (entryReq s.cfg e) .accepted ts :: tr ∧ Replayed s.cfg s.idx due tr ∧ due ≤ ts ∧ ts ≤ s.now
  | .iDelay => ∃ e, s.entry = some e ∧ Replayed s.cfg (s.idx + 1) (s.tMark + e.postDelay) s.trace
  | .fCasetIssue => ∃ px, s.src = some px ∧ Flushing s.cfg s.win px 0 s.trace
  | .fCasetWait => ∃ px ts tr, s.src = some px ∧ s.inflight = some (casetReq s.cfg s.win) ∧
      s.trace = .submitted (casetReq s.cfg s.win) .accepted ts :: tr ∧ Flushing s.cfg s.win px 0 tr
  | .fRasetIssue => ∃ px, s.src = some px ∧ Flushing s.cfg s.win px 1 s.trace
  | .fRasetWait => ∃ px ts tr, s.src = some px ∧ s.inflight = some (rasetReq s.cfg s.win) ∧
      s.trace = .submitted (rasetReq s.cfg s.win) .accepted ts :: tr ∧ Flushing s.cfg s.win px 1 tr
  | .fAlloc => ∃ px, s.src = some px ∧ Flushing s.cfg s.win px 2 s.trace
  | .fPerm => ∃ px b, s.src = some px ∧ Flushing s.cfg s.win px 3 s.trace ∧ s.scratch = some b ∧
      ScratchHolds s.cfg.pixOrder s.win.npix s.pcount px b
  | .fPixIssue => ∃ px b, s.src = some px ∧ Flushing s.cfg s.win px 3 s.trace ∧ s.scratch = some b ∧
      ScratchHolds s.cfg.pixOrder s.win.npix s.pcount px b ∧ s.pcount = s.win.npix
  | .fPixWait => ∃ px ts tr b, s.src = some px ∧ s.inflight = some (pixelReq s.cfg px) ∧
      s.trace = .submitted (pixelReq s.cfg px) .accepted ts :: tr ∧ Flushing s.cfg s.win px 3 tr ∧
      s.scratch = some b ∧ ScratchHolds s.cfg.pixOrder s.win.npix s.pcount px b ∧ s.pcount = s.win.npix

/-- Both memories of the panel that the observer keeps are canonical. -/
def Panel.wf (p : Panel) : Bool := Memory.wf p.regs && Memory.wf p.fm

/-- The invariant of the machine: it holds after reset, and every step keeps it. -/
structure State.Inv (s : State) : Prop where
  /-- A handle is stored only under a configuration of this block (00_scope.md R10, 41_init_sequencer.md R166). -/
  configured : s.handle ≠ none → s.cfg.wf = true
  /-- An operation in progress has a handle (40_transaction_encoder.md R149). -/
  attached   : s.phase ≠ .idle → s.handle ≠ none
  /-- One transaction in flight exactly in the wait phases (10_state.md R39, 20_memory.md R77). -/
  slot       : s.inflight.isSome = s.phase.isWait
  /-- A completion is pending only for a request in flight (10_state.md R44). -/
  signal     : s.completion ≠ none → s.inflight ≠ none
  /-- The reset line is low only during the pulse (10_state.md R23). -/
  line       : s.rstN = .low ↔ s.phase = .iRstLow
  /-- The scratch buffer exists exactly in the phases of 10_state.md R38. -/
  scratch    : s.scratch.isSome = s.phase.holdsScratch
  /-- `pbuf` is 36 bytes and `plen` is within it (10_state.md R33). -/
  params     : s.pbuf.length = maxParams ∧ s.plen ≤ maxParams
  /-- A time mark lies in the past (10_state.md R28). -/
  mark       : s.tMark ≤ s.now
  /-- The memories of the panel are canonical. -/
  panel      : s.panel.wf = true
  /-- The operation in progress stands where its phase says. -/
  progress   : s.progress

/-- Moves of a cooperating environment for one INIT entry (20_memory.md R80, R82). -/
def entryScript (e : CommandEntry) : List Move :=
  [.block, .complete .done, .block] ++ (if e.postDelay ≠ 0 then [.clock e.postDelay, .block] else [])

/-- Moves of a cooperating environment for one INIT, from its acceptance on. -/
def initScript (c : Config) (rstCfg : Bool) : List Move :=
  (if rstCfg then [.clock c.tRstLow, .block, .clock c.tRstSettle, .block] else []) ++
    c.initTable.flatMap entryScript

/-- Moves of a cooperating environment for one FLUSH of `n` pixels, from its acceptance on. -/
def flushScript (n : Nat) : List Move :=
  [.block, .complete .done, .block, .block, .complete .done, .block, .block] ++
    List.replicate (n + 1) .block ++ [.block, .complete .done, .block]

/-- The events of the reset pulse at time `t`, oldest first (41_init_sequencer.md R162). -/
def pulseEvents (c : Config) (t : Nat) : List Event := [.rstDrive .low t, .rstDrive .high (t + c.tRstLow)]

/-- The events of the entries from time `t` on, oldest first, when each waits exactly its post-delay. -/
def replayEvents (c : Config) : List CommandEntry → Nat → List Event
  | [], _ => []
  | e :: es, t =>
    .submitted (entryReq c e) .accepted t :: .completed (entryReq c e) .done t :: replayEvents c es (t + e.postDelay)

/-- The time the entries take when each waits exactly its post-delay. -/
def replayTime (es : List CommandEntry) : Nat := (es.map CommandEntry.postDelay).sum

/-- The events of a FLUSH at time `t` from acceptance on, oldest first, when all goes well (44_flush_pipeline.md R229). -/
def flushEvents (c : Config) (w : Window) (px : List Half) (t : Nat) : List Event :=
  [.accepted (flushOp w (some px)) t,
   .submitted (casetReq c w) .accepted t, .completed (casetReq c w) .done t,
   .submitted (rasetReq c w) .accepted t, .completed (rasetReq c w) .done t,
   .allocated (2 * w.npix) .ok,
   .submitted (pixelReq c px) .accepted t, .completed (pixelReq c px) .done t,
   .freed t, .returned .ok t]

/-- `n` steps of the machine, stopping at the first fault or refusal (it is `Host.Core.run` of the machine: `run_eq_core`). -/
def run : Nat → State → Result1
  | 0, s => .next s
  | n + 1, s =>
    match step s with
    | .next t => run n t
    | .fault f => .fault f
    | .refused r => .refused r

/-- The step put the event `e` on the trace. -/
def Records (s t : State) (e : Event) : Prop := ∃ before after, t.trace = after ++ e :: before ++ s.trace

/-- Rename the transport's failure values in a result (92_eei_decisions.md D34). -/
def Result.mapErr (f : XErr → XErr) : Result → Result
  | .xportFail e => .xportFail (f e)
  | .initSeqFail i op e => .initSeqFail i op (f e)
  | .ok => .ok
  | .invalidArg c => .invalidArg c
  | .allocFail => .allocFail

/-- Rename the transport's failure values in an answer. -/
def SubmitAnswer.mapErr (f : XErr → XErr) : SubmitAnswer → SubmitAnswer
  | .accepted => .accepted
  | .refused e => .refused (f e)

/-- Rename the transport's failure values in a completion. -/
def Completion.mapErr (f : XErr → XErr) : Completion → Completion
  | .done => .done
  | .failed e => .failed (f e)

/-- Rename the transport's failure values in an event. -/
def Event.mapErr (f : XErr → XErr) : Event → Event
  | .submitted r a t => .submitted r (a.mapErr f) t
  | .completed r o t => .completed r (o.mapErr f) t
  | .returned r t => .returned (r.mapErr f) t
  | .rstDrive l t => .rstDrive l t
  | .allocated n a => .allocated n a
  | .freed t => .freed t
  | .accepted i t => .accepted i t

/-- Rename the transport's failure values in a move. -/
def Move.mapErr (f : XErr → XErr) : Move → Move
  | .answer a => .answer (a.mapErr f)
  | .complete c => .complete (c.mapErr f)
  | .block => .block
  | .clock dt => .clock dt
  | .host p => .host p
  | .allocator a => .allocator a
  | .por => .por

/-- Rename the transport's failure values everywhere in a state. -/
def State.mapErr (f : XErr → XErr) (s : State) : State :=
  { s with
    result := s.result.mapErr f
    submitAns := s.submitAns.mapErr f
    completion := s.completion.map (Completion.mapErr f)
    moves := s.moves.map (Move.mapErr f)
    trace := s.trace.map (Event.mapErr f) }

/-- An outcome with its next state changed. -/
def mapNext (g : State → State) : Result1 → Result1
  | .next s => .next (g s)
  | .fault f => .fault f
  | .refused r => .refused r

/-- The state with another panel in front of the observer. -/
def State.withPanel (p : Panel) (s : State) : State := { s with panel := p }

end Sys2Proof.Machine
end

