-- ==== Sys2Proof/Certificates/Slice0/Obligations.lean ====
section
/-! DEFINITION. The statements for the provers, with OBLIGATIONS.json. Those marked "the model's choice" name the log entry
they rest on. -/

open Sys2Proof Sys2Proof.Machine

/-! ## Encodings -/

/-- Frames written out from 95_test_vectors.md V2 to V5 decode to the operations they stand for; an opcode that no parameter
names is a VENDOR entry's (the model's choice, log entry 11). -/
def Obligations.WrittenFramesDecode : Prop :=
  let c := Config.withTable []
  decode c (.frame [0x02, 0x00, 0x2A, 0x00, 0x00, 0x0A, 0x00, 0x6D]) = .ok (.caset 10 110) ∧
  decode c (.frame [0x02, 0x00, 0x2B, 0x00, 0x00, 0x14, 0x00, 0x45]) = .ok (.raset 20 70) ∧
  decode c (.frame [0x32, 0x00, 0x2C, 0x00, 0x07, 0xC0]) = .ok (.ramwr [0x07, 0xC0]) ∧
  decode { c with opPixwr := 0x3C } (.frame [0x32, 0x00, 0x3C, 0x00, 0x07, 0xC0]) = .ok (.ramwrc [0x07, 0xC0]) ∧
  decode c (.frame [0x02, 0x00, 0x3A, 0x00, 0x55]) = .ok (.colmod [0x55]) ∧
  decode c (.frame [0x02, 0x00, 0x36, 0x00]) = .ok (.madctl []) ∧
  decode c (.frame [0x02, 0x00, 0x35, 0x00]) = .ok (.teon []) ∧
  decode c (.frame [0x02, 0x00, 0x21, 0x00]) = .ok (.invon []) ∧
  decode c (.frame [0x02, 0x00, 0x11, 0x00]) = .ok (.slpout []) ∧
  decode c (.frame [0x02, 0x00, 0x29, 0x00]) = .ok (.dispon []) ∧
  decode c (.frame [0x02, 0x00, 0xFF, 0x00, 0x00]) = .ok (.vendor 0xFF [0x00])

/-- For every well-formed operation of every family, decoding its encoding gives it back, with every operand at every
value; a pixel write does so under its own opcode as `OP_PIXWR` and is rejected under the other (30_encoding.md R120).
CMDWR and VENDOR have one bit pattern: the decoder answers VENDOR where the opcode is not a named one, and the named
operation where it is one of the six terminal opcodes (the model's choice, log entry 11). For an address-set opcode it
answers CASET or RASET where the bytes are those of a window's side, and rejects other lengths and sides by name. The
order of the comparisons, and with it the premise that the named opcodes differ, and these rejections are the model's
choice (log entry 12). -/
def Obligations.DecodeOfEncode : Prop :=
  ∀ c : Config, c.wf = true → c.opsDistinct = true →
    (∀ i : Instr, i.wf = true → (∀ op ps, i ≠ .cmdwr op ps) → (∀ op ps, i ≠ .vendor op ps) →
      (∀ bs, i = .ramwr bs → c.opPixwr = 0x2C) → (∀ bs, i = .ramwrc bs → c.opPixwr = 0x3C) →
      decode c (encode c i) = .ok i) ∧
    (∀ bs : List Byte, bs ≠ [] → bs.length % 2 = 0 →
      (c.opPixwr = 0x3C → decode c (encode c (.ramwr bs)) = .error .pixelOpcode) ∧
      (c.opPixwr = 0x2C → decode c (encode c (.ramwrc bs)) = .error .pixelOpcode)) ∧
    (∀ op ps, ps.length ≤ maxParams → op ∉ c.namedOps →
      decode c (encode c (.vendor op ps)) = .ok (.vendor op ps) ∧
      decode c (encode c (.cmdwr op ps)) = .ok (.vendor op ps)) ∧
    (∀ op ps, ps.length ≤ maxParams → op ∈ c.namedOps →
      decode c (encode c (.vendor op ps)) = decode c (encode c (.cmdwr op ps)) ∧
      (op ≠ c.opCaset → op ≠ c.opRaset →
        ∃ i, decode c (encode c (.cmdwr op ps)) = .ok i ∧ i ≠ .vendor op ps ∧ encode c i = encode c (.cmdwr op ps)) ∧
      (op = c.opCaset ∨ op = c.opRaset → ps.length ≠ 4 →
        decode c (encode c (.cmdwr op ps)) = .error .addressSetLength)) ∧
    (∀ (op a b e f : Byte), op = c.opCaset ∨ op = c.opRaset →
      ((e ++ f : Half).toNat = 65535 → decode c (encode c (.cmdwr op [a, b, e, f])) = .error .endOutOfRange) ∧
      ((e ++ f : Half).toNat < (a ++ b : Half).toNat → (e ++ f : Half).toNat ≠ 65535 →
        decode c (encode c (.cmdwr op [a, b, e, f])) = .error .endBeforeStart) ∧
      ((a ++ b : Half).toNat ≤ (e ++ f : Half).toNat → (e ++ f : Half).toNat ≠ 65535 →
        (op = c.opCaset → decode c (encode c (.cmdwr op [a, b, e, f])) = .ok (.caset (a ++ b) ((e ++ f) + 1))) ∧
        (op = c.opRaset → decode c (encode c (.cmdwr op [a, b, e, f])) = .ok (.raset (a ++ b) ((e ++ f) + 1)))))

/-- Whatever byte string the decoder accepts is the encoding of the operation it answers, and that operation is
well-formed: no bit of a frame is dropped. -/
def Obligations.EncodeOfDecode : Prop :=
  ∀ (c : Config) (bytes : List Byte) (i : Instr), decodeFrame c bytes = .ok i →
    encode c i = .frame bytes ∧ i.wf = true

/-- What the decoder accepts has the form of 30_encoding.md R101 to R103: one of the two markers, an address that is zero
outside bits 15:8; class CMD at most 36 data bytes, an address set exactly 4; class PIX opcode `OP_PIXWR` and an even,
non-zero length. Each kind of frame that R120 lists is rejected by a name of its own. That an address-set opcode with
other than 4 bytes is rejected although a table entry may send it (R121) is the model's choice (log entry 12). -/
def Obligations.DecoderRejectsWhatIsNeverSent : Prop :=
  ∀ (c : Config), c.wf = true →
    (∀ bytes i, decodeFrame c bytes = .ok i →
      ∃ m op data, bytes = [m, 0x00, op, 0x00] ++ data ∧
        ((m = c.markerCmd ∧ data.length ≤ 36 ∧ (op = c.opCaset ∨ op = c.opRaset → data.length = 4)) ∨
          (m = c.markerPix ∧ op = c.opPixwr ∧ data.length % 2 = 0 ∧ data ≠ []))) ∧
    (∀ m a op b data, m ≠ c.markerCmd → m ≠ c.markerPix →
      decodeFrame c (m :: a :: op :: b :: data) = .error .unknownMarker) ∧
    (∀ m a op b data, m = c.markerCmd ∨ m = c.markerPix → a ≠ 0 ∨ b ≠ 0 →
      decodeFrame c (m :: a :: op :: b :: data) = .error .addressBits) ∧
    (∀ op data, 36 < data.length → decodeFrame c ([c.markerCmd, 0, op, 0] ++ data) = .error .tooManyParams) ∧
    (∀ op data, op = c.opCaset ∨ op = c.opRaset → data.length ≤ 36 → data.length ≠ 4 →
      decodeFrame c ([c.markerCmd, 0, op, 0] ++ data) = .error .addressSetLength) ∧
    (∀ op data, data = [] ∨ data.length % 2 = 1 →
      decodeFrame c ([c.markerPix, 0, op, 0] ++ data) = .error .pixelLength) ∧
    (∀ op data, data ≠ [] → data.length % 2 = 0 → op ≠ c.opPixwr →
      decodeFrame c ([c.markerPix, 0, op, 0] ++ data) = .error .pixelOpcode) ∧
    (∀ bytes : List Byte, bytes.length < 4 → decodeFrame c bytes = .error .shortHeader)

/-- The frame that an accepted operation puts in flight is, byte for byte, the encoding of that operation
(30_encoding.md R108). -/
def Obligations.SentFrameIsEncoding : Prop :=
  ∀ (i : Instr) (s t : State) (r : Req), exec i s = .next t → s.inflight = none → t.inflight = some r →
    encode s.cfg i = .frame r.frame

/-- The address field and the header: the opcode in bits 15:8 of the address, zero elsewhere; marker, then address. -/
def Obligations.HeaderFields : Prop :=
  ∀ (m op : Byte),
    (addressField op).toNat = op.toNat * 2 ^ 8 ∧
    (addressField op).extractLsb' 16 8 = 0#8 ∧ (addressField op).extractLsb' 8 8 = op ∧
    (addressField op).extractLsb' 0 8 = 0#8 ∧
    (frameHeader m op).extractLsb' 24 8 = m ∧ (frameHeader m op).extractLsb' 16 8 = 0#8 ∧
    (frameHeader m op).extractLsb' 8 8 = op ∧ (frameHeader m op).extractLsb' 0 8 = 0#8

/-- The address-set payload: start and inclusive end, each high byte first; no borrow in `end - 1`. The row pair is the same
function of `y0` and `y1`. -/
def Obligations.AddressSetPayload : Prop :=
  (∀ x0 y0 x1 y1 : Half, x0.toNat < x1.toNat → y0.toNat < y1.toNat →
    (x1 - 1).toNat = x1.toNat - 1 ∧ (y1 - 1).toNat = y1.toNat - 1 ∧
    sidePayload x0 x1 =
      [x0.extractLsb' 8 8, x0.extractLsb' 0 8, (x1 - 1).extractLsb' 8 8, (x1 - 1).extractLsb' 0 8] ∧
    sidePayload y0 y1 =
      [y0.extractLsb' 8 8, y0.extractLsb' 0 8, (y1 - 1).extractLsb' 8 8, (y1 - 1).extractLsb' 0 8]) ∧
  sidePayload 10 110 = [0x00, 0x0A, 0x00, 0x6D] ∧ sidePayload 20 70 = [0x00, 0x14, 0x00, 0x45]

/-- The pixel payload: bytes `2k` and `2k + 1` are the two bytes of the corrected pixel `k` in the configured order, and
nothing else. -/
def Obligations.PixelPayloadBytes : Prop :=
  ∀ (o : PixOrder) (px : List Half),
    (pixelPayload o px).length = 2 * px.length ∧
    (∀ k v, px[k]? = some v →
      (pixelPayload o px)[2 * k]? = some (match o with | .hiFirst => hi8 (perm v) | .loFirst => lo8 (perm v)) ∧
      (pixelPayload o px)[2 * k + 1]? = some (match o with | .hiFirst => lo8 (perm v) | .loFirst => hi8 (perm v))) ∧
    pixelsOfBytes o (pixelPayload o px) = px.map perm

/-- The lines of a transaction: 32 clocks of header on IO0, then 8 clocks for each byte on one line or 2 for each byte on
four, high nibble first. It rests on the spec's own decisions D5, D6 (log entry 26). -/
def Obligations.ClockCounts : Prop :=
  ∀ (r : Req),
    r.clocks.length = 32 + (match r.dataLines with | .single => 8 | .quad => 2) * r.data.length ∧
    (∀ k < 8, r.clocks[k]? = some (.io0 (r.marker.getMsbD k))) ∧
    (∀ k < 24, r.clocks[8 + k]? = some (.io0 (r.addr.getMsbD k))) ∧
    (∀ k b, r.data[k]? = some b →
      (r.dataLines = .single → ∀ j < 8, r.clocks[32 + 8 * k + j]? = some (.io0 (b.getMsbD j))) ∧
      (r.dataLines = .quad →
        r.clocks[32 + 2 * k]? = some (.io3to0 (b.extractLsb' 4 4)) ∧
        r.clocks[32 + 2 * k + 1]? = some (.io3to0 (b.extractLsb' 0 4))))

/-! ## The colour permutation -/

/-- T as fields: red takes blue, green takes red with a zero below, blue takes the top five bits of green; and the spec's
example, pure red. -/
def Obligations.PermFields : Prop :=
  (∀ v : Half,
    red (perm v) = blue v ∧ green (perm v) = red v ++ 0#1 ∧ blue (perm v) = (green v).extractLsb' 1 5 ∧
    (green (perm v)).toNat = 2 * (red v).toNat ∧ (blue (perm v)).toNat = (green v).toNat / 2) ∧
  perm 0xF800 = 0x07C0

/-- T as masks and shifts, bit by bit, and the input bit that is lost. The spec derives it from 43_color_permutation.md
R205. -/
def Obligations.PermMasks : Prop :=
  ∀ v : Half,
    perm v = ((v &&& 0x001F) <<< 11) ||| ((v &&& 0xF800) >>> 5) ||| ((v &&& 0x07C0) >>> 6) ∧
    (perm v).extractLsb' 11 5 = v.extractLsb' 0 5 ∧ (perm v).extractLsb' 6 5 = v.extractLsb' 11 5 ∧
    (perm v).getLsbD 5 = false ∧ (perm v).extractLsb' 0 5 = v.extractLsb' 6 5 ∧
    perm (v ^^^ 0x0020) = perm v

/-- Three applications clear the lowest green bit and change nothing else; two give the fields `(G >> 1, B << 1, R)`. The
spec derives it from 43_color_permutation.md R205. -/
def Obligations.PermThreeFold : Prop :=
  ∀ v : Half,
    perm (perm (perm v)) = v &&& 0xFFDF ∧
    (perm (perm (perm v)) = v ↔ v.getLsbD 5 = false) ∧
    (v.getLsbD 5 = true → v - perm (perm (perm v)) = 0x0020 ∧ v ^^^ perm (perm (perm v)) = 0x0020) ∧
    red (perm (perm v)) = (green v).extractLsb' 1 5 ∧ green (perm (perm v)) = blue v ++ 0#1 ∧
    blue (perm (perm v)) = red v

/-- The image of T, its collisions, its inverse on the image, its fixed points and near-fixed points. The spec derives it
from 43_color_permutation.md R205. -/
def Obligations.PermImageAndFixedPoints : Prop :=
  (∀ w : Half, (∃ v, perm v = w) ↔ w.getLsbD 5 = false) ∧
  (∀ u v : Half, perm u = perm v ↔ u = v ∨ u = v ^^^ 0x0020) ∧
  (∀ v : Half, v.getLsbD 5 = false → perm (perm (perm v)) = v) ∧
  (∀ w : Half, w.getLsbD 5 = false → ∃ v, v.getLsbD 5 = false ∧ perm v = w) ∧
  (∀ v : Half, perm v = v ↔ blue v = red v ∧ (green v).toNat = 2 * (red v).toNat) ∧
  (∀ v : Half, perm v = v ↔ ∃ r < 32, v = BitVec.ofNat 16 (r * 0x0841)) ∧
  (∀ v : Half, blue v = red v → (green v).toNat = 2 * (red v).toNat + 1 → perm v = v ^^^ 0x0020)

/-- With the word sent being `T(v)`, the glass shows `v`'s blue exactly, `v`'s red shifted left by one in six bits, and the
top five bits of `v`'s green. The spec derives it from 43_color_permutation.md R205 (20_memory.md R85). -/
def Obligations.ShownColour : Prop :=
  ∀ v : Half,
    shownBlue (perm v) = blue v ∧ shownRed (perm v) = red v ++ 0#1 ∧ shownGreen (perm v) = (green v).extractLsb' 1 5

/-! ## Reset and the raising of an error -/

/-- The values that the spec gives for power-on reset, in `State.reset` and after `por` in any state, and that the first
thing the machine does is wait. They are the spec's own decision D27. -/
def Obligations.ResetValues : Prop :=
  State.reset.handle = none ∧ State.reset.rstN = .high ∧ State.reset.initStatus = .never ∧
  State.reset.result = .ok ∧ State.reset.valid = false ∧ State.reset.err = false ∧
  State.reset.phase = .idle ∧ State.reset.busy = false ∧ State.reset.idx = 0 ∧
  State.reset.scratch = none ∧ State.reset.inflight = none ∧ step State.reset = .next State.reset ∧
  ∀ (s : State) (ms : List Move), s.moves = .por :: ms → ∃ t, step s = .next t ∧
    t.handle = none ∧ t.rstN = .high ∧ t.initStatus = .never ∧ t.result = .ok ∧ t.valid = false ∧ t.err = false ∧
    t.phase = .idle ∧ t.busy = false ∧ t.idx = 0 ∧ t.scratch = none ∧ t.inflight = none

/-- `por` in any state: what it leaves as it was, and no event. That the configuration, the environment's lines and the
trace stay, that a pending completion goes, and that the observer no longer knows the panel when an operation is cut short
is the model's choice (log entries 18 and 21). -/
def Obligations.PowerOnReset : Prop :=
  ∀ (s : State) (ms : List Move), s.moves = .por :: ms → ∃ t, step s = .next t ∧ t.completion = none ∧
    t.panel.held = false ∧ (s.phase ≠ .idle ∨ s.inflight ≠ none → t.panel.lost = true) ∧
    t.cfg = s.cfg ∧ t.now = s.now ∧ t.hostPort = s.hostPort ∧ t.submitAns = s.submitAns ∧ t.allocAns = s.allocAns ∧
    t.moves = ms ∧ t.trace = s.trace

/-- `raise E(info)`, from every state: the scratch buffer released with its event if there is one, the result and its
valid bit, back to `IDLE`; everything else as it was. It never runs with a transaction in flight, and an error changes
`init_status` only as a failed table entry. -/
def Obligations.RaiseEffect : Prop :=
  (∀ (s : State) (r : Result),
    s.raise r =
      { s with
        scratch := none
        result := r
        valid := true
        phase := .idle
        trace := .returned r s.now ::
          (match s.scratch with | none => [] | some _ => [.freed s.now]) ++ s.trace } ∧
    (s.raise r).busy = false ∧ (s.raise r).err = decide (r ≠ .ok)) ∧
  (∀ (s t : State) (r : Result) (n : Nat), s.Inv → step s = .next t → Records s t (.returned r n) →
    t.inflight = none ∧
      (t.initStatus ≠ s.initStatus → r ≠ .ok → t.initStatus = .failed ∧ ∃ k op e, r = .initSeqFail k op e))

/-- When a step ends a host operation, nothing is in flight, the buffer is released, the controller is back in `IDLE` and
the result record says what the event says; and the operation was in progress or just accepted. It rests on the spec's own
decisions D21 and D24. -/
def Obligations.ReturnedStateIsClean : Prop :=
  ∀ (s t : State) (r : Result) (n : Nat), s.Inv → step s = .next t → Records s t (.returned r n) →
    t.phase = .idle ∧ t.inflight = none ∧ t.scratch = none ∧ t.completion = none ∧ t.valid = true ∧ t.result = r ∧
    t.rstN = .high ∧ n = t.now ∧ (s.phase ≠ .idle ∨ s.hostPort ≠ none)

/-! ## What each operation does -/

/-- CMDWR in each of the three phases that invoke it: the parameter buffer loaded, the frame submitted and in flight, on
to the wait phase; nothing else changes. The line counts of the request are the spec's own decision D5. That the bytes of
`pbuf` past the new length stay (log entry 22) and what the observer notes of the panel (log entry 21) are the model's
choice. -/
def Obligations.CmdwrSends : Prop :=
  ∀ (s : State) (op : Byte) (ps : List Byte),
    s.phase = .iIssue ∨ s.phase = .fCasetIssue ∨ s.phase = .fRasetIssue → ps.length ≤ 36 →
    s.handle ≠ none → s.inflight = none → s.submitAns = .accepted →
    exec (.cmdwr op ps) s =
      .next (State.sent (s.cfg.markerCmd ++ (0#8 ++ op ++ 0#8)) (commandReq s.cfg op ps)
        { s with pbuf := ps ++ s.pbuf.drop ps.length, plen := ps.length })

/-- Each table entry's operation in `I_ISSUE`: its configured opcode and its bytes in one command write, in flight. The
line counts of the request are the spec's own decision D5. That the bytes of `pbuf` past the new length stay (log entry
22) and what the observer notes of the panel (log entry 21) are the model's choice. -/
def Obligations.EntryOperationsSend : Prop :=
  ∀ (s : State) (i : Instr) (op : Byte) (ps : List Byte),
    (i = .colmod ps ∧ op = s.cfg.opColmod) ∨ (i = .madctl ps ∧ op = s.cfg.opMadctl) ∨
      (i = .teon ps ∧ op = s.cfg.opTeon) ∨ (i = .invon ps ∧ op = s.cfg.opInvon) ∨
      (i = .slpout ps ∧ op = s.cfg.opSlpout) ∨ (i = .dispon ps ∧ op = s.cfg.opDispon) ∨ i = .vendor op ps →
    s.phase = .iIssue → ps.length ≤ 36 → s.handle ≠ none → s.inflight = none → s.submitAns = .accepted →
    exec i s =
      .next (State.sent (s.cfg.markerCmd ++ (0#8 ++ op ++ 0#8)) (commandReq s.cfg op ps)
        { s with pbuf := ps ++ s.pbuf.drop ps.length, plen := ps.length })

/-- CASET and RASET: the four bytes of the side, the end inclusive, in one command write of the configured opcode. The
line counts of the request are the spec's own decision D5. That the bytes of `pbuf` past the new length stay (log entry
22) and what the observer notes of the panel (log entry 21) are the model's choice. -/
def Obligations.AddressSetsSend : Prop :=
  ∀ (s : State) (a b : Half), a.toNat < b.toNat → s.handle ≠ none → s.inflight = none → s.submitAns = .accepted →
    let bytes := [a.extractLsb' 8 8, a.extractLsb' 0 8, (b - 1).extractLsb' 8 8, (b - 1).extractLsb' 0 8]
    let loaded := { s with pbuf := bytes ++ s.pbuf.drop 4, plen := 4 }
    (s.phase = .fCasetIssue → exec (.caset a b) s =
      .next (State.sent (s.cfg.markerCmd ++ (0#8 ++ s.cfg.opCaset ++ 0#8)) (commandReq s.cfg s.cfg.opCaset bytes) loaded)) ∧
    (s.phase = .fRasetIssue → exec (.raset a b) s =
      .next (State.sent (s.cfg.markerCmd ++ (0#8 ++ s.cfg.opRaset ++ 0#8)) (commandReq s.cfg s.cfg.opRaset bytes) loaded))

/-- RAMWR and RAMWRC: the whole payload in one color write on four lines, under the configured opcode. The line counts of
the request are the spec's own decision D5, the configured opcode D8. What the observer notes of the panel is the model's
choice (log entry 21). -/
def Obligations.PixelWritesSend : Prop :=
  ∀ (s : State) (bs : List Byte), bs ≠ [] → bs.length % 2 = 0 → s.phase = .fPixIssue →
    s.handle ≠ none → s.inflight = none → s.submitAns = .accepted →
    (s.cfg.opPixwr = 0x2C → exec (.ramwr bs) s =
      .next (State.sent (s.cfg.markerPix ++ (0#8 ++ 0x2C#8 ++ 0#8)) (colorReq s.cfg 0x2C bs) s)) ∧
    (s.cfg.opPixwr = 0x3C → exec (.ramwrc bs) s =
      .next (State.sent (s.cfg.markerPix ++ (0#8 ++ 0x3C#8 ++ 0#8)) (colorReq s.cfg 0x3C bs) s))

/-- A table entry refused at submit: INIT fails with the entry's index and opcode and the transport's value unchanged; the
reset line, the handle and `idx` stay; nothing is in flight. It rests on the spec's own decisions D23 and D25. -/
def Obligations.EntryRefusedFailsInit : Prop :=
  ∀ (s : State) (i : Instr) (op : Byte) (ps : List Byte) (e : XErr),
    (i = .colmod ps ∧ op = s.cfg.opColmod) ∨ (i = .madctl ps ∧ op = s.cfg.opMadctl) ∨
      (i = .teon ps ∧ op = s.cfg.opTeon) ∨ (i = .invon ps ∧ op = s.cfg.opInvon) ∨
      (i = .slpout ps ∧ op = s.cfg.opSlpout) ∨ (i = .dispon ps ∧ op = s.cfg.opDispon) ∨ i = .vendor op ps ∨
      i = .cmdwr op ps →
    s.phase = .iIssue → ps.length ≤ 36 → s.handle ≠ none → s.inflight = none → s.scratch = none →
    s.submitAns = .refused e →
    ∃ t, exec i s = .next t ∧
      t.phase = .idle ∧ t.result = .initSeqFail s.idx op e ∧ t.valid = true ∧ t.initStatus = .failed ∧
      t.idx = s.idx ∧ t.handle = s.handle ∧ t.rstN = s.rstN ∧ t.inflight = none ∧ t.scratch = none ∧
      t.trace = .returned (.initSeqFail s.idx op e) s.now ::
        .submitted (commandReq s.cfg op ps) (.refused e) s.now :: s.trace

/-- A transaction of FLUSH refused at submit: FLUSH fails with the transport's value unchanged; the buffer, if there is one,
is released after the refused answer; `init_status` and the handle stay; nothing is in flight. When the buffer is released
is the spec's own decision D24. -/
def Obligations.TransactionRefusedFailsFlush : Prop :=
  ∀ (s : State) (e : XErr), s.handle ≠ none → s.inflight = none → s.submitAns = .refused e →
    (∀ i r, (∃ a b : Half, a.toNat < b.toNat ∧
          ((s.phase = .fCasetIssue ∧ i = .caset a b ∧ r = commandReq s.cfg s.cfg.opCaset (sidePayload a b)) ∨
            (s.phase = .fRasetIssue ∧ i = .raset a b ∧ r = commandReq s.cfg s.cfg.opRaset (sidePayload a b)))) ∨
        (∃ bs : List Byte, bs ≠ [] ∧ bs.length % 2 = 0 ∧ s.phase = .fPixIssue ∧
          ((s.cfg.opPixwr = 0x2C ∧ i = .ramwr bs ∧ r = colorReq s.cfg 0x2C bs) ∨
            (s.cfg.opPixwr = 0x3C ∧ i = .ramwrc bs ∧ r = colorReq s.cfg 0x3C bs))) ∨
        (∃ op ps, ps.length ≤ 36 ∧ (s.phase = .fCasetIssue ∨ s.phase = .fRasetIssue) ∧ i = .cmdwr op ps ∧
          r = commandReq s.cfg op ps) →
      ∃ t, exec i s = .next t ∧
        t.phase = .idle ∧ t.result = .xportFail e ∧ t.valid = true ∧ t.initStatus = s.initStatus ∧
        t.handle = s.handle ∧ t.rstN = s.rstN ∧ t.idx = s.idx ∧ t.inflight = none ∧ t.scratch = none ∧
        t.trace = .returned (.xportFail e) s.now ::
          (match s.scratch with | none => [] | some _ => [.freed s.now]) ++ .submitted r (.refused e) s.now :: s.trace)

/-- The operands that the block never gives a unit, refused: more than 36 parameter bytes, a side with no positive extent, a
payload that is empty or odd, a pixel opcode that is not the configured one. The refusals' names are the model's choice (log
entry 10). -/
def Obligations.IllFormedOperandsRefused : Prop :=
  ∀ (s : State),
    (∀ op ps, 36 < ps.length → s.phase = .iIssue ∨ s.phase = .fCasetIssue ∨ s.phase = .fRasetIssue →
      exec (.cmdwr op ps) s = .refused .paramsTooLong) ∧
    (∀ i op ps, 36 < ps.length → s.phase = .iIssue →
      i = .colmod ps ∨ i = .madctl ps ∨ i = .teon ps ∨ i = .invon ps ∨ i = .slpout ps ∨ i = .dispon ps ∨
        i = .vendor op ps →
      exec i s = .refused .paramsTooLong) ∧
    (∀ a b : Half, b.toNat ≤ a.toNat →
      exec (.caset a b) s = .refused .emptySide ∧ exec (.raset a b) s = .refused .emptySide) ∧
    (∀ bs : List Byte, s.phase = .fPixIssue → bs = [] ∨ bs.length % 2 = 1 →
      exec (.ramwr bs) s = .refused .badPayload ∧ exec (.ramwrc bs) s = .refused .badPayload) ∧
    (∀ bs : List Byte, s.phase = .fPixIssue → bs ≠ [] → bs.length % 2 = 0 →
      (s.cfg.opPixwr ≠ 0x2C → exec (.ramwr bs) s = .refused .pixelOpcodeNotConfigured) ∧
      (s.cfg.opPixwr ≠ 0x3C → exec (.ramwrc bs) s = .refused .pixelOpcodeNotConfigured))

/-- The unit operations run nowhere but where the controller invokes them: each gives a next state only in its phase, with
a handle stored and nothing in flight (elsewhere it is refused by a name that is the model's choice, log entry 10). -/
def Obligations.UnitOperationsRunOnlyWhereInvoked : Prop :=
  ∀ (i : Instr) (s t : State), exec i s = .next t →
    (∀ op ps, i = .cmdwr op ps → s.phase = .iIssue ∨ s.phase = .fCasetIssue ∨ s.phase = .fRasetIssue) ∧
    (∀ op ps, i = .colmod ps ∨ i = .madctl ps ∨ i = .teon ps ∨ i = .invon ps ∨ i = .slpout ps ∨ i = .dispon ps ∨
      i = .vendor op ps → s.phase = .iIssue) ∧
    (∀ a b, i = .caset a b → s.phase = .fCasetIssue) ∧ (∀ a b, i = .raset a b → s.phase = .fRasetIssue) ∧
    (∀ bs, i = .ramwr bs ∨ i = .ramwrc bs → s.phase = .fPixIssue) ∧
    ((∀ rst x, i ≠ .init rst x) → (∀ x0 y0 x1 y1 src, i ≠ .flush x0 y0 x1 y1 src) →
      s.handle ≠ none ∧ s.inflight = none)

/-- INIT accepted in `IDLE`: a null handle is rejected with nothing driven, sent or stored; otherwise the handle is stored
and the reset pulse, or the replay, starts. That a rejected INIT still latches `rst_cfg` is the model's choice (log entry
14). The null handle is the spec's own decision D22. What the observer notes of the panel is the model's choice (log entry
21). -/
def Obligations.InitStarts : Prop :=
  ∀ (s : State) (rst : Bool), s.phase = .idle → s.scratch = none →
    exec (.init rst none) s =
      .next { s with
        hostPort := none
        rstCfg := rst
        result := .invalidArg .nullHandle
        valid := true
        trace := .returned (.invalidArg .nullHandle) s.now :: .accepted (.init rst none) s.now :: s.trace } ∧
    (∀ h : XHandle, s.cfg.wf = true →
      exec (.init false (some h)) s =
        .next { s with
          hostPort := none
          valid := false
          rstCfg := false
          handle := some h
          idx := 0
          phase := .iIssue
          panel := s.panel.abandon
          trace := .accepted (.init false (some h)) s.now :: s.trace } ∧
      exec (.init true (some h)) s =
        .next { s with
          hostPort := none
          valid := false
          rstCfg := true
          handle := some h
          idx := 0
          phase := .iRstLow
          rstN := .low
          tMark := s.now
          panel := s.panel.resetLine .low s.now
          trace := .rstDrive .low s.now :: .accepted (.init true (some h)) s.now :: s.trace })

/-- FLUSH accepted in `IDLE` with every argument in order: the window and the source are latched, the pixel count cleared,
and the address window comes next; nothing else changes. The checks are the spec's own decisions D13, D14 and D22. -/
def Obligations.FlushStarts : Prop :=
  ∀ (s : State) (x0 y0 x1 y1 : Half) (px : List Half), s.phase = .idle → s.handle ≠ none →
    x0.toNat < x1.toNat → y0.toNat < y1.toNat → x1.toNat ≤ s.cfg.panelW → y1.toNat ≤ s.cfg.panelH →
    px.length = (x1.toNat - x0.toNat) * (y1.toNat - y0.toNat) → 2 * px.length ≤ s.cfg.maxXferBytes →
    exec (.flush x0 y0 x1 y1 (some px)) s =
      .next { s with
        hostPort := none
        valid := false
        win := ⟨x0, y0, x1, y1⟩
        src := some px
        pcount := 0
        phase := .fCasetIssue
        trace := .accepted (.flush x0 y0 x1 y1 (some px)) s.now :: s.trace }

/-- FLUSH's validation: the first cause that applies, in the spec's order, is the result; the trace gains acceptance and
return and nothing else; no register but the result changes. And a FLUSH that starts has a window of positive area within
the panel. The checks and their order are the spec's own decisions D13, D14 and D22. That a rejected FLUSH leaves `win`,
`src` and `pcount` is the model's choice (log entry 14). -/
def Obligations.FlushRejectsInvalidArguments : Prop :=
  (∀ (s : State) (x0 y0 x1 y1 : Half) (src : Option (List Half)) (cause : Cause), s.phase = .idle → s.scratch = none →
    (cause = .nullHandle ∧ (s.handle = none ∨ src = none)) ∨
      (∃ px, s.handle ≠ none ∧ src = some px ∧
        ((cause = .zeroArea ∧ (x1.toNat ≤ x0.toNat ∨ y1.toNat ≤ y0.toNat)) ∨
          (x0.toNat < x1.toNat ∧ y0.toNat < y1.toNat ∧
            ((cause = .outOfPanel ∧ (s.cfg.panelW < x1.toNat ∨ s.cfg.panelH < y1.toNat)) ∨
              (cause = .lenMismatch ∧ x1.toNat ≤ s.cfg.panelW ∧ y1.toNat ≤ s.cfg.panelH ∧
                px.length ≠ (x1.toNat - x0.toNat) * (y1.toNat - y0.toNat)))))) →
    exec (.flush x0 y0 x1 y1 src) s =
      .next { s with
        hostPort := none
        result := .invalidArg cause
        valid := true
        trace := .returned (.invalidArg cause) s.now :: .accepted (.flush x0 y0 x1 y1 src) s.now :: s.trace }) ∧
  (∀ (s t : State) (x0 y0 x1 y1 : Half) (src : Option (List Half)), s.phase = .idle →
    exec (.flush x0 y0 x1 y1 src) s = .next t → t.phase ≠ .idle →
    t.win = ⟨x0, y0, x1, y1⟩ ∧ x0.toNat < x1.toNat ∧ x1.toNat ≤ s.cfg.panelW ∧ y0.toNat < y1.toNat ∧
      y1.toNat ≤ s.cfg.panelH)

/-- What the spec puts outside the block's behaviour is refused by name: INIT under a configuration that is not one of this
block, and a FLUSH with valid arguments of more bytes than the transport's maximum. It rests on the spec's own decisions
D18, D19 and D29 (log entries 4 and 17). -/
def Obligations.OutsideTheBlockRefused : Prop :=
  ∀ (s : State), s.phase = .idle →
    (∀ rst h, s.cfg.wf = false → exec (.init rst (some h)) s = .refused .illFormedConfig) ∧
    (∀ (x0 y0 x1 y1 : Half) (px : List Half), s.handle ≠ none → x0.toNat < x1.toNat → y0.toNat < y1.toNat →
      x1.toNat ≤ s.cfg.panelW → y1.toNat ≤ s.cfg.panelH →
      px.length = (x1.toNat - x0.toNat) * (y1.toNat - y0.toNat) → s.cfg.maxXferBytes < 2 * px.length →
      exec (.flush x0 y0 x1 y1 (some px)) s = .refused .transferTooLarge)

/-- An operation presented while another is in progress is not accepted, which is the spec's own decision D1. That the
state then does not change and that the request stays at the port is the model's choice (log entry 15). -/
def Obligations.BusyAcceptsNothing : Prop :=
  ∀ (s : State), s.busy = true →
    (∀ rst x, exec (.init rst x) s = .next s) ∧ (∀ x0 y0 x1 y1 src, exec (.flush x0 y0 x1 y1 src) s = .next s) ∧
    (∀ i t n, step s = .next t → ¬ Records s t (.accepted i n)) ∧
    (∀ t, step s = .next t → s.hostPort ≠ none → t.hostPort = s.hostPort)

/-! ## Frames -/

/-- The frame of the twelve frame operations: what each leaves as it was when it gives a next state. They change `hdr`,
`inflight`, `phase`, the trace and what the observer notes of the panel; the command writes also `pbuf` and `plen`. On a
refused answer the operation that invoked them ends, which also writes `result`, `valid` and (INIT) `init_status`, and
releases the scratch buffer. No byte of any memory is written: on an accepted answer every byte reads as before. -/
def Obligations.FrameOperationsFrame : Prop :=
  ∀ (i : Instr) (s t : State), (∀ rst x, i ≠ .init rst x) → (∀ x0 y0 x1 y1 src, i ≠ .flush x0 y0 x1 y1 src) →
    exec i s = .next t →
    (t.cfg = s.cfg ∧ t.handle = s.handle ∧ t.rstN = s.rstN ∧ t.idx = s.idx ∧ t.tMark = s.tMark ∧ t.rstCfg = s.rstCfg ∧
      t.win = s.win ∧ t.px = s.px ∧ t.pcount = s.pcount ∧ t.src = s.src ∧ t.now = s.now ∧ t.hostPort = s.hostPort ∧
      t.submitAns = s.submitAns ∧ t.completion = s.completion ∧ t.allocAns = s.allocAns ∧ t.allocs = s.allocs ∧
      t.moves = s.moves) ∧
    (∀ bs, i = .ramwr bs ∨ i = .ramwrc bs → t.pbuf = s.pbuf ∧ t.plen = s.plen) ∧
    (s.submitAns = .accepted →
      t.result = s.result ∧ t.valid = s.valid ∧ t.initStatus = s.initStatus ∧
      (t.scratch = none ↔ s.scratch = none) ∧
      (∀ b b', s.scratch = some b → t.scratch = some b' → b'.size = b.size ∧ ∀ a, b'.read a = b.read a) ∧
      (∀ a, Memory.read t.panel.regs a = Memory.read s.panel.regs a) ∧
      (∀ a, Memory.read t.panel.fm a = Memory.read s.panel.fm a)) ∧
    (∀ e, s.submitAns = .refused e →
      t.inflight = none ∧ t.scratch = none ∧
      (s.phase ≠ .iIssue → t.initStatus = s.initStatus ∧ t.panel = s.panel))

/-- The frame of the two host operations: what each leaves as it was when it gives a next state. INIT may change `handle`,
`idx`, `rstCfg`, the reset line with its time mark and what the observer knows of the panel; FLUSH may change `win`, `src`, `pcount`;
both the port, `result`, `valid`, `phase` and the trace. No byte of any memory is written. -/
def Obligations.HostOperationsFrame : Prop :=
  ∀ (i : Instr) (s t : State), exec i s = .next t →
    ((∃ rst x, i = .init rst x) ∨ (∃ x0 y0 x1 y1 src, i = .flush x0 y0 x1 y1 src) →
      t.cfg = s.cfg ∧ t.initStatus = s.initStatus ∧ t.hdr = s.hdr ∧ t.pbuf = s.pbuf ∧ t.plen = s.plen ∧ t.px = s.px ∧
      t.inflight = s.inflight ∧ t.now = s.now ∧ t.submitAns = s.submitAns ∧ t.completion = s.completion ∧
      t.allocAns = s.allocAns ∧ t.allocs = s.allocs ∧ t.moves = s.moves ∧
      (∀ b, t.scratch = some b → s.scratch = some b)) ∧
    ((∃ rst x, i = .init rst x) → t.win = s.win ∧ t.src = s.src ∧ t.pcount = s.pcount) ∧
    (∀ x, i = .init false x ∨ i = .init true none → t.rstN = s.rstN ∧ t.tMark = s.tMark) ∧
    (∀ rst, i = .init rst none → t.handle = s.handle ∧ t.idx = s.idx ∧ t.panel = s.panel) ∧
    ((∃ x0 y0 x1 y1 src, i = .flush x0 y0 x1 y1 src) →
      t.handle = s.handle ∧ t.idx = s.idx ∧ t.rstCfg = s.rstCfg ∧ t.rstN = s.rstN ∧ t.tMark = s.tMark ∧
      t.panel = s.panel)

/-! ## The steps of the controller -/

/-- A step runs the decoded operation. When the controller moves (no other agent's move is due; a `block` move is used up
first), the lines at the host port that encode a host operation in `IDLE`, the table entry at `idx` in `I_ISSUE`, the
window's two sides and the whole scratch buffer in the pipeline's issue phases are what `exec` runs. Which agent moves is
log entry 8; the host port is the spec's own decision D1. -/
def Obligations.StepRunsFetchedOperation : Prop :=
  ∀ (s u : State), (s.moves = [] ∧ u = s) ∨ (∃ ms, s.moves = .block :: ms ∧ u = { s with moves := ms }) →
    (∀ p i, s.phase = .idle → s.hostPort = some p → decode s.cfg (.host p) = .ok i → step s = exec i u) ∧
    (∀ p rst x, s.phase = .idle → s.hostPort = some p → encode s.cfg (.init rst x) = .host p →
      step s = exec (.init rst x) u) ∧
    (∀ p x0 y0 x1 y1 src, s.phase = .idle → s.hostPort = some p →
      encode s.cfg (.flush x0 y0 x1 y1 src) = .host p → step s = exec (.flush x0 y0 x1 y1 src) u) ∧
    (∀ e, s.phase = .iIssue → s.cfg.initTable[s.idx]? = some e → s.cfg.wf = true →
      (s.idx + 6 < s.cfg.initTable.length → step s = exec (.vendor e.opcode e.parameters) u) ∧
      (s.idx + 6 = s.cfg.initTable.length → step s = exec (.colmod e.parameters) u) ∧
      (s.idx + 5 = s.cfg.initTable.length → step s = exec (.madctl e.parameters) u) ∧
      (s.idx + 4 = s.cfg.initTable.length → step s = exec (.teon e.parameters) u) ∧
      (s.idx + 3 = s.cfg.initTable.length → step s = exec (.invon e.parameters) u) ∧
      (s.idx + 2 = s.cfg.initTable.length → step s = exec (.slpout e.parameters) u) ∧
      (s.idx + 1 = s.cfg.initTable.length → step s = exec (.dispon e.parameters) u)) ∧
    (s.phase = .fCasetIssue → step s = exec (.caset s.win.x0 s.win.x1) u) ∧
    (s.phase = .fRasetIssue → step s = exec (.raset s.win.y0 s.win.y1) u) ∧
    (∀ b, s.phase = .fPixIssue → s.scratch = some b →
      (s.cfg.opPixwr = 0x2C → step s = exec (.ramwr ((List.range b.size).map b.read)) u) ∧
      (s.cfg.opPixwr = 0x3C → step s = exec (.ramwrc ((List.range b.size).map b.read)) u))

/-- A stalled transport is a hang: in a wait phase with no completion signal, the controller's steps change nothing, however
many there are. It rests on the spec's own decision D28. -/
def Obligations.StalledTransportHangs : Prop :=
  ∀ (s : State), s.phase = .iWait ∨ s.phase = .fCasetWait ∨ s.phase = .fRasetWait ∨ s.phase = .fPixWait →
    s.completion = none → s.moves = [] → ∀ n, run n s = .next s

/-- RSTPULSE: while the line is low and less than `T_RST_LOW_MS` has passed the controller waits; then it drives the line
high and marks the time; while less than `T_RST_SETTLE_MS` has passed it waits; then the replay starts. It rests on the
spec's own decisions D16 and D21. What the observer notes of the panel is the model's choice (log entry 21). -/
def Obligations.ResetPulseSteps : Prop :=
  ∀ (s : State), s.moves = [] →
    (s.phase = .iRstLow → s.now < s.tMark + s.cfg.tRstLow → step s = .next s) ∧
    (s.phase = .iRstLow → s.tMark + s.cfg.tRstLow ≤ s.now →
      step s = .next { s with
        rstN := .high
        tMark := s.now
        phase := .iRstSettle
        panel := s.panel.resetLine .high s.now
        trace := .rstDrive .high s.now :: s.trace }) ∧
    (s.phase = .iRstSettle → s.now < s.tMark + s.cfg.tRstSettle → step s = .next s) ∧
    (s.phase = .iRstSettle → s.tMark + s.cfg.tRstSettle ≤ s.now → step s = .next { s with phase := .iIssue })

/-- The replay of one entry, step by step: fetch, load, submit; accepted, wait; done, the post-delay if there is one, else
the next entry or the end; the post-delay over, the next entry or the end. The line counts of the request are the spec's
own decision D5, the value in the result D25. That the bytes of `pbuf` past the new length stay (log entry 22) and what
the observer notes of the panel (log entry 21) are the model's choice. -/
def Obligations.ReplayOneEntry : Prop :=
  ∀ (s : State) (e : CommandEntry), s.moves = [] → s.cfg.initTable[s.idx]? = some e → s.handle ≠ none →
    e.parameters.length ≤ 36 → s.scratch = none →
    let following (u : State) : State :=
      if s.idx + 1 < s.cfg.initTable.length then { u with idx := s.idx + 1, phase := .iIssue }
      else { u with
        idx := s.idx + 1
        initStatus := .ok
        result := .ok
        valid := true
        phase := .idle
        trace := .returned .ok s.now :: u.trace }
    (s.phase = .iIssue → s.inflight = none → s.submitAns = .accepted →
      step s = .next { s with
        pbuf := e.parameters ++ s.pbuf.drop e.parameters.length
        plen := e.parameters.length
        hdr := s.cfg.markerCmd ++ (0#8 ++ e.opcode ++ 0#8)
        inflight := some (commandReq s.cfg e.opcode e.parameters)
        phase := .iWait
        panel := { s.panel with sentAt := s.now }
        trace := .submitted (commandReq s.cfg e.opcode e.parameters) .accepted s.now :: s.trace }) ∧
    (∀ x, s.phase = .iIssue → s.inflight = none → s.submitAns = .refused x →
      ∃ t, step s = .next t ∧ t.result = .initSeqFail s.idx e.opcode x ∧ t.valid = true ∧ t.initStatus = .failed ∧
        t.phase = .idle ∧ t.idx = s.idx) ∧
    (∀ r, s.phase = .iWait → s.inflight = some r → s.completion = some .done →
      let u : State := { s with inflight := none, completion := none, trace := .completed r .done s.now :: s.trace }
      step s = .next (if e.postDelay ≠ 0 then { u with tMark := s.now, phase := .iDelay } else following u)) ∧
    (∀ r x, s.phase = .iWait → s.inflight = some r → s.completion = some (.failed x) →
      ∃ t, step s = .next t ∧ t.result = .initSeqFail s.idx e.opcode x ∧ t.valid = true ∧ t.initStatus = .failed ∧
        t.phase = .idle ∧ t.idx = s.idx) ∧
    (s.phase = .iDelay → s.now < s.tMark + e.postDelay → step s = .next s) ∧
    (s.phase = .iDelay → s.tMark + e.postDelay ≤ s.now → step s = .next (following s))

/-- An entry's command write failed at completion: the exact index and opcode and the transport's value in the result,
nothing further sent, the post-delay not waited; the reset line, the handle and `idx` stay. It rests on the spec's own
decisions D23 and D25. -/
def Obligations.EntryFailedAtCompletion : Prop :=
  ∀ (s : State) (e : CommandEntry) (r : Req) (x : XErr), s.moves = [] → s.cfg.initTable[s.idx]? = some e →
    s.phase = .iWait → s.inflight = some r → s.completion = some (.failed x) → s.scratch = none →
    ∃ t, step s = .next t ∧ t.phase = .idle ∧ t.result = .initSeqFail s.idx e.opcode x ∧ t.valid = true ∧
      t.initStatus = .failed ∧ t.idx = s.idx ∧ t.rstN = s.rstN ∧ t.handle = s.handle ∧ t.inflight = none ∧
      t.completion = none ∧ t.tMark = s.tMark ∧
      t.trace = .returned (.initSeqFail s.idx e.opcode x) s.now :: .completed r (.failed x) s.now :: s.trace

/-- The wait steps of SETWIN: done, on to the row address set or to the allocation; failed, FLUSH fails with the
transport's value and nothing further is sent. -/
def Obligations.AddressSetWaits : Prop :=
  ∀ (s : State) (r : Req) (p : Phase), s.moves = [] → s.inflight = some r → s.scratch = none →
    (s.phase = .fCasetWait ∧ p = .fRasetIssue) ∨ (s.phase = .fRasetWait ∧ p = .fAlloc) →
    (s.completion = some .done →
      step s = .next { s with
        inflight := none
        completion := none
        phase := p
        trace := .completed r .done s.now :: s.trace }) ∧
    (∀ e, s.completion = some (.failed e) →
      step s = .next { s with
        inflight := none
        completion := none
        phase := .idle
        result := .xportFail e
        valid := true
        trace := .returned (.xportFail e) s.now :: .completed r (.failed e) s.now :: s.trace })

/-- The allocation: exactly `2 * npix` bytes are asked for; granted, a buffer of that size with free contents and the
correction next; not granted, FLUSH fails and nothing further is sent. The free contents are log entry 19. That the pixel
count is cleared here again is the model's choice (log entry 14). -/
def Obligations.AllocationStep : Prop :=
  ∀ (s : State), s.moves = [] → s.phase = .fAlloc → s.scratch = none →
    let n := 2 * ((s.win.x1.toNat - s.win.x0.toNat) * (s.win.y1.toNat - s.win.y0.toNat))
    (s.allocAns = .ok →
      step s = .next { s with
        scratch := some ⟨n, s.allocs, []⟩
        allocs := s.allocs + 1
        pcount := 0
        phase := .fPerm
        trace := .allocated n .ok :: s.trace }) ∧
    (s.allocAns = .noMem →
      step s = .next { s with
        result := .allocFail
        valid := true
        phase := .idle
        trace := .returned .allocFail s.now :: .allocated n .noMem :: s.trace })

/-- PERMBUF, one step (one pixel a step in rising order is the model's choice, log entry 9): the next source pixel goes
through T into bytes `2k` and `2k + 1` of the scratch buffer, and every other byte reads as before; when all are done the
pixel write comes next. Nothing else changes, the source buffer among it. That the pixel register holds the uncorrected
pixel is the model's choice (log entry 27). -/
def Obligations.PermbufStep : Prop :=
  ∀ (s : State) (b : Scratch), s.moves = [] → s.phase = .fPerm → s.scratch = some b →
    (s.pcount = s.win.npix → step s = .next { s with phase := .fPixIssue }) ∧
    (∀ px v, s.pcount < s.win.npix → s.src = some px → px[s.pcount]? = some v → b.size = 2 * s.win.npix →
      ∃ b', step s = .next { s with px := v, scratch := some b', pcount := s.pcount + 1 } ∧ b'.size = b.size ∧
        (s.cfg.pixOrder = .hiFirst →
          b'.read (2 * s.pcount) = hi8 (perm v) ∧ b'.read (2 * s.pcount + 1) = lo8 (perm v)) ∧
        (s.cfg.pixOrder = .loFirst →
          b'.read (2 * s.pcount) = lo8 (perm v) ∧ b'.read (2 * s.pcount + 1) = hi8 (perm v)) ∧
        ∀ a, a ≠ 2 * s.pcount → a ≠ 2 * s.pcount + 1 → b'.read a = b.read a)

/-- The completion of the pixel write: the buffer is released only now, after the completion event; then the result. It
rests on the spec's own decision D24. -/
def Obligations.PixelWriteWait : Prop :=
  ∀ (s : State) (r : Req) (b : Scratch), s.moves = [] → s.phase = .fPixWait → s.inflight = some r →
    s.scratch = some b →
    (∀ c res, s.completion = some c →
      (c = .done ∧ res = .ok) ∨ (∃ e, c = .failed e ∧ res = .xportFail e) →
      step s = .next { s with
        inflight := none
        completion := none
        scratch := none
        result := res
        valid := true
        phase := .idle
        trace := .returned res s.now :: .freed s.now :: .completed r c s.now :: s.trace }) ∧
    (s.completion = none → step s = .next s)

/-! ## Whole operations -/

/-- INIT from acceptance to its return, under an environment that accepts and completes every transaction and lets the
time pass: the whole table, each entry once, in order, after the reset pulse if there is one, and `OK`. The environment's
script is the model's (log entry 8). -/
def Obligations.InitRunsToOk : Prop :=
  ∀ (s : State) (rst : Bool) (h : XHandle) (rest : List Move),
    s.phase = .idle → s.inflight = none → s.completion = none → s.scratch = none → s.submitAns = .accepted →
    s.cfg.wf = true → s.moves = initScript s.cfg rst ++ rest →
    let start := if rst then s.now + s.cfg.tRstLow + s.cfg.tRstSettle else s.now
    let stop := start + replayTime s.cfg.initTable
    ∃ t u, exec (.init rst (some h)) s = .next t ∧ run (initScript s.cfg rst).length t = .next u ∧
      u.phase = .idle ∧ u.result = .ok ∧ u.valid = true ∧ u.initStatus = .ok ∧ u.handle = some h ∧
      u.idx = s.cfg.initTable.length ∧ u.rstN = (if rst then .high else s.rstN) ∧ u.scratch = none ∧ u.inflight = none ∧
      u.completion = none ∧ u.cfg = s.cfg ∧ u.win = s.win ∧ u.src = s.src ∧ u.px = s.px ∧ u.pcount = s.pcount ∧
      u.now = stop ∧ u.moves = rest ∧
      u.trace = ((Event.accepted (.init rst (some h)) s.now :: (if rst then pulseEvents s.cfg s.now else [])) ++
        replayEvents s.cfg s.cfg.initTable start ++ [Event.returned .ok stop]).reverse ++ s.trace

/-- FLUSH from acceptance to its return, under an environment that accepts and completes every transaction and grants the
buffer: column set, row set, allocation, the corrected pixels in one color write, release, `OK`. Every field of the state
but the observer's panel is said: the window, the source, the count, the pixel and header registers and the parameter
buffer hold what the FLUSH left, the port is empty, and the handle, `init_status`, the reset line, `idx`, the time, the
time mark, `rst_cfg`, the configuration and the answer lines are as before. The environment's script (log entry 8), its n
+ 1 controller steps in `F_PERM` (log entry 9), what the pixel register holds (log entry 27), the bytes of `pbuf` past the
four (log entry 22) and the allocation counter (log entry 19) are the model's choice. -/
def Obligations.FlushRunsToOk : Prop :=
  ∀ (s : State) (w : Window) (px : List Half) (rest : List Move),
    s.phase = .idle → s.handle ≠ none → s.inflight = none → s.completion = none → s.scratch = none →
    s.submitAns = .accepted → s.allocAns = .ok → s.cfg.wf = true → windowCause s.cfg w px = none →
    2 * px.length ≤ s.cfg.maxXferBytes → s.moves = flushScript px.length ++ rest →
    ∃ t u, exec (flushOp w (some px)) s = .next t ∧ run (flushScript px.length).length t = .next u ∧
      u.phase = .idle ∧ u.result = .ok ∧ u.valid = true ∧ u.scratch = none ∧ u.inflight = none ∧ u.completion = none ∧
      u.win = w ∧ u.src = some px ∧ u.pcount = px.length ∧ u.handle = s.handle ∧ u.initStatus = s.initStatus ∧
      u.rstN = s.rstN ∧ u.idx = s.idx ∧ u.cfg = s.cfg ∧ u.now = s.now ∧ u.moves = rest ∧
      u.tMark = s.tMark ∧ u.rstCfg = s.rstCfg ∧ u.hostPort = none ∧ u.submitAns = s.submitAns ∧ u.allocAns = s.allocAns ∧
      u.allocs = s.allocs + 1 ∧ some u.px = px.getLast? ∧ u.hdr = s.cfg.markerPix ++ (0#8 ++ s.cfg.opPixwr ++ 0#8) ∧
      u.plen = 4 ∧ u.pbuf = sidePayload w.y0 w.y1 ++ s.pbuf.drop 4 ∧
      u.trace = (flushEvents s.cfg w px s.now).reverse ++ s.trace

/-- After that FLUSH under `OP_PIXWR = 0x2C`, on a panel whose state is defined and that accepts commands, the observer
finds pixel `k` of the buffer, corrected, at column `x0 + k mod w`, row `y0 + k div w`, and every other position of the
panel as it was. The panel is an observer, no part of the block (log entry 21). An address set whose opcode is the
sleep-exit command would start its floor (20_memory.md R87): the premises exclude it. -/
def Obligations.FlushLandsPixels : Prop :=
  ∀ (s : State) (w : Window) (px : List Half) (rest : List Move),
    s.phase = .idle → s.handle ≠ none → s.inflight = none → s.completion = none → s.scratch = none →
    s.submitAns = .accepted → s.allocAns = .ok → s.cfg.wf = true → windowCause s.cfg w px = none →
    2 * px.length ≤ s.cfg.maxXferBytes → s.moves = flushScript px.length ++ rest →
    s.initStatus = .ok → s.panel.held = false → s.panel.lost = false → s.panel.notBefore ≤ s.now →
    s.cfg.opPixwr = 0x2C → s.cfg.opCaset ≠ s.cfg.opRaset → s.cfg.opCaset ≠ s.cfg.opSlpout →
    s.cfg.opRaset ≠ s.cfg.opSlpout →
    ∃ t u, exec (flushOp w (some px)) s = .next t ∧ run (flushScript px.length).length t = .next u ∧
      (∀ k v, px[k]? = some v →
        Memory.read u.panel.fm (pixelAddress s.cfg (w.x0.toNat + k % w.width) (w.y0.toNat + k / w.width)) =
          some (perm v)) ∧
      (∀ x y, x < s.cfg.panelW →
        ¬ (w.x0.toNat ≤ x ∧ x < w.x1.toNat ∧ w.y0.toNat ≤ y ∧ y < w.y1.toNat) →
        Memory.read u.panel.fm (pixelAddress s.cfg x y) = Memory.read s.panel.fm (pixelAddress s.cfg x y))

/-! ## The machine as a whole -/

/-- The configuration and the init table in it are the same after every step, and the entry that the replay fetches at
index `i` is `INIT_TABLE[i]`. That no parameter changes is the spec's own decision D18 (00_scope.md R11); the
configuration as a field of State is the model's choice (log entry 1). -/
def Obligations.ConfigNeverWritten : Prop :=
  (∀ s t : State, step s = .next t → t.cfg = s.cfg ∧ t.cfg.initTable = s.cfg.initTable) ∧
  (∀ s : State, s.entry = s.cfg.initTable[s.idx]?)

/-- Time never decreases, and the trace only grows. -/
def Obligations.TimeAndTraceGrow : Prop :=
  ∀ s t : State, step s = .next t → s.now ≤ t.now ∧ ∃ added, t.trace = added ++ s.trace

/-- The handle changes only when an INIT that is given one is accepted, or by `por`; the reset line goes low only when an
INIT with `rst_cfg` is accepted and high only at the end of its low time, each with its event, or by `por`; `init_status`
changes only when an operation in one of INIT's phases returns, to Ok past the end of the table and to Failed on a failed
entry, or by `por`. It rests on the spec's own decisions D21 to D23 and D27. -/
def Obligations.PersistentStateWriters : Prop :=
  ∀ s t : State, step s = .next t →
    (t.handle ≠ s.handle →
      (∃ ms, s.moves = .por :: ms ∧ t.handle = none) ∨
        (∃ rst h, t.handle = some h ∧ Records s t (.accepted (.init rst (some h)) s.now))) ∧
    (t.rstN ≠ s.rstN →
      (∃ ms, s.moves = .por :: ms ∧ t.rstN = .high) ∨
        (s.phase = .idle ∧ t.rstN = .low ∧ Records s t (.rstDrive .low s.now) ∧
          ∃ h, Records s t (.accepted (.init true (some h)) s.now)) ∨
        (s.phase = .iRstLow ∧ t.rstN = .high ∧ Records s t (.rstDrive .high s.now))) ∧
    (t.initStatus ≠ s.initStatus →
      (∃ ms, s.moves = .por :: ms ∧ t.initStatus = .never) ∨
        (s.phase.isInit = true ∧ t.initStatus = .ok ∧ s.cfg.initTable.length ≤ t.idx ∧ Records s t (.returned .ok s.now)) ∨
        (s.phase.isInit = true ∧ t.initStatus = .failed ∧ ∃ k op e, Records s t (.returned (.initSeqFail k op e) s.now)))

/-- The status bits and the result record. `busy` is set by acceptance and cleared by return; `valid` is set by the
writing of a result and cleared by acceptance; `result` is held until the next return; besides these only `por` changes
them. The record's codes are 0 to 4 by class and 1 to 4 by cause, and it has a cause and a transport value exactly where
its class names them (60_exceptions.md R241 to R245, the spec's own decisions D14, D15 and D25). The bits are the spec's
own decision D1; what `por` keeps is the model's choice (log entry 18). -/
def Obligations.StatusBits : Prop :=
  (∀ s : State, s.busy = decide (s.phase ≠ .idle) ∧ s.err = (s.valid && decide (s.result ≠ .ok))) ∧
  State.reset.valid = false ∧
  (Result.ok.code = 0 ∧ (∀ c, (Result.invalidArg c).code = 1) ∧ Result.allocFail.code = 2 ∧
    (∀ e, (Result.xportFail e).code = 3) ∧ (∀ k op e, (Result.initSeqFail k op e).code = 4) ∧
    Cause.nullHandle.code = 1 ∧ Cause.zeroArea.code = 2 ∧ Cause.outOfPanel.code = 3 ∧ Cause.lenMismatch.code = 4) ∧
  (∀ r : Result, (∀ c, r.cause = some c ↔ r = .invalidArg c) ∧
    (∀ e, r.xerr = some e ↔ r = .xportFail e ∨ ∃ k op, r = .initSeqFail k op e)) ∧
  (∀ s t : State, step s = .next t → s.busy = true → ∀ i n, ¬ Records s t (.accepted i n)) ∧
  ∀ s t : State, step s = .next t → (∀ ms, s.moves ≠ .por :: ms) →
    (s.busy = false → t.busy = true → ∃ i, Records s t (.accepted i s.now)) ∧
    (s.busy = true → t.busy = false → ∃ r, Records s t (.returned r s.now)) ∧
    (s.valid = false → t.valid = true → ∃ r, Records s t (.returned r s.now)) ∧
    (s.valid = true → t.valid = false → ∃ i, Records s t (.accepted i s.now)) ∧
    (t.result ≠ s.result → Records s t (.returned t.result s.now)) ∧
    (∀ r n, Records s t (.returned r n) → t.valid = true ∧ t.result = r ∧ t.busy = false)

/-- Every request the block submits: a handle is stored, nothing is in flight, and the frame has the form of R100 to R103:
command class with at most 36 bytes on one line, or pixel class under the configured `OP_PIXWR` with an even, non-zero
number of bytes on four lines; the address is zero outside bits 15:8. The line counts are the spec's own decision D5. -/
def Obligations.SubmittedFramesAreWellFormed : Prop :=
  ∀ (s t : State) (r : Req) (a : SubmitAnswer) (n : Nat), step s = .next t → Records s t (.submitted r a n) →
    s.handle ≠ none ∧ s.inflight = none ∧ n = s.now ∧ a = s.submitAns ∧
    ((∃ op ps, r = commandReq s.cfg op ps ∧ ps.length ≤ 36) ∨
      (∃ bs, r = colorReq s.cfg s.cfg.opPixwr bs ∧ bs.length % 2 = 0 ∧ bs ≠ [] ∧
        (s.cfg.opPixwr = 0x2C ∨ s.cfg.opPixwr = 0x3C)))

/-- The block reads nothing of the panel: with any other panel in its place every step ends alike and leaves the same state
but for the panel. The panel is the model's observer (log entry 21). -/
def Obligations.PanelIsNeverRead : Prop :=
  ∀ (s : State) (p : Panel),
    (∀ t, step s = .next t → ∃ q, step (s.withPanel p) = .next (t.withPanel q)) ∧
    (∀ f, step s = .fault f ↔ step (s.withPanel p) = .fault f) ∧
    (∀ f, step s = .refused f ↔ step (s.withPanel p) = .refused f)

/-- The transport's failure values are copied and never inspected: renaming them everywhere before a step is renaming them
everywhere after it. It rests on the spec's own decision D34 (log entry 5). -/
def Obligations.TransportValuesAreOpaque : Prop :=
  ∀ (f : XErr → XErr) (s : State), step (s.mapErr f) = mapNext (State.mapErr f) (step s)

/-- The invariant holds after reset. -/
def Obligations.InvariantAtReset : Prop := State.reset.Inv

/-- Every step, whichever agent moves, keeps the invariant: the phase and the trace agree, one transaction in flight in the
wait phases alone, the reset line low in `I_RST_LOW` alone, the scratch buffer in its three phases alone and holding the
corrected pixels so far, the memories canonical. -/
def Obligations.InvariantKept : Prop := ∀ s t : State, s.Inv → step s = .next t → t.Inv

/-- No state that meets the invariant raises a fault: no access to an address that does not exist. Log entry 20. -/
def Obligations.NoFaultUnderInvariant : Prop := ∀ (s : State) (f : Fault), s.Inv → step s ≠ .fault f

/-- The scratch buffer exists only in `F_PERM`, `F_PIX_ISSUE` and `F_PIX_WAIT`. It rests on the spec's own decision D24. -/
def Obligations.ScratchOnlyInItsPhases : Prop :=
  ∀ s t : State, s.Inv → step s = .next t → t.scratch ≠ none →
    t.phase = .fPerm ∨ t.phase = .fPixIssue ∨ t.phase = .fPixWait

/-- Every result that a step returns is the one that the trace before it calls for: of an INIT, `OK` only after the whole
table in order, a failure only with the index, opcode and value of the entry that failed; of a FLUSH, the rows of R229. It
rests on the spec's own decisions D22 to D25. -/
def Obligations.ResultMatchesTrace : Prop :=
  ∀ (s t : State) (r : Result) (n : Nat), s.Inv → step s = .next t → Records s t (.returned r n) →
    ∃ before, t.trace = .returned r n :: before ∧ (InitEnded s.cfg r n before ∨ FlushEnded s.cfg r before)

/-- The pixel write and the two address sets directly before it: in every state that meets the invariant, what the pixel
write of a FLUSH submits is the corrected pixels of that FLUSH's source buffer, whole and in order, and before it the
trace has the allocation, the row set and the column set of that FLUSH's window, and its acceptance, with nothing between.
The window's checks are the spec's own decisions D13 and D14, the line counts D5. -/
def Obligations.PixelWriteFollowsItsWindow : Prop :=
  ∀ (s t : State) (r : Req) (a : SubmitAnswer) (n : Nat), s.Inv → step s = .next t → Records s t (.submitted r a n) →
    r.dataLines = .quad →
    ∃ px t0 t1 t2 t3 t4 older, s.src = some px ∧ r = pixelReq s.cfg px ∧ windowCause s.cfg s.win px = none ∧
      s.trace = .allocated (2 * s.win.npix) .ok ::
        .completed (rasetReq s.cfg s.win) .done t4 :: .submitted (rasetReq s.cfg s.win) .accepted t3 ::
        .completed (casetReq s.cfg s.win) .done t2 :: .submitted (casetReq s.cfg s.win) .accepted t1 ::
        .accepted (flushOp s.win (some px)) t0 :: older

/-- The timing floors, at every step from a state that meets the invariant: the first entry after a reset pulse, every
entry after the post-delay of the one before, the display-on entry after the sleep-exit floor, and INIT's return after the
last post-delay. Time and the post-delays are the spec's own decision D16. -/
def Obligations.TimingFloorsKept : Prop :=
  ∀ (s t : State), s.Inv → step s = .next t →
    (∀ e a ts, s.phase = .iIssue → Records s t (.submitted (entryReq s.cfg e) a ts) →
      (s.idx = 0 →
        (∃ h ta older, s.trace = .accepted (.init false (some h)) ta :: older) ∨
          (∃ h ta t0 t1 older,
            s.trace = .rstDrive .high t1 :: .rstDrive .low t0 :: .accepted (.init true (some h)) ta :: older ∧
            t0 + s.cfg.tRstLow ≤ t1 ∧ 10 ≤ s.cfg.tRstLow ∧ t1 + s.cfg.tRstSettle ≤ ts ∧ 120 ≤ s.cfg.tRstSettle)) ∧
      (∀ i d, s.idx = i + 1 → s.cfg.initTable[i]? = some d →
        ∃ tc older, s.trace = .completed (entryReq s.cfg d) .done tc :: older ∧ tc + d.postDelay ≤ ts ∧
          (s.idx + 1 = s.cfg.initTable.length → d.opcode = s.cfg.opSlpout ∧ tc + s.cfg.tSlpout ≤ ts ∧
            120 ≤ s.cfg.tSlpout))) ∧
    (∀ n, s.phase = .iWait ∨ s.phase = .iDelay → Records s t (.returned .ok n) →
      ∃ d tc older, s.cfg.initTable[s.cfg.initTable.length - 1]? = some d ∧
        t.trace = .returned .ok n :: .completed (entryReq s.cfg d) .done tc :: older ∧ tc + d.postDelay ≤ n)

/-- An INIT that fails never submits a later entry: when INIT returns `InitSeqFail(k, op, e)`, entry `k` has opcode `op`,
and the last request on the trace is that entry's, in the step that returns: its post-delay is not waited. It rests on the
spec's own decisions D23 and D25. -/
def Obligations.FailedInitStops : Prop :=
  ∀ (s t : State) (k : Nat) (op : Byte) (x : XErr) (n : Nat), s.Inv → step s = .next t →
    Records s t (.returned (.initSeqFail k op x) n) →
    t.phase = .idle ∧ t.initStatus = .failed ∧ t.result = .initSeqFail k op x ∧ t.valid = true ∧ t.idx = k ∧
    t.rstN = .high ∧ t.handle = s.handle ∧
    ∃ e due older, s.cfg.initTable[k]? = some e ∧ e.opcode = op ∧ Replayed s.cfg k due older ∧
      (t.trace = .returned (.initSeqFail k op x) n :: .submitted (entryReq s.cfg e) (.refused x) n :: older ∨
        (∃ ts, t.trace = .returned (.initSeqFail k op x) n :: .completed (entryReq s.cfg e) (.failed x) n ::
          .submitted (entryReq s.cfg e) .accepted ts :: older))
end

