-- ==== Sys2Proof/Laws/Bytes.lean ====
section
/-! SUPPORT. The laws of bytes and fields: byte order there and back, the header's fields, the request that a header makes,
the fields of a corrected pixel, the length of a payload. -/

namespace Sys2Proof

/-- A bit of two values side by side. -/
theorem getLsbD_pair {w v n : Nat} (h : n = w + v) (x : BitVec w) (y : BitVec v) (i : Nat) :
    ((x ++ y).cast h.symm).getLsbD i = if i < v then y.getLsbD i else x.getLsbD (i - v) := by
  simp [BitVec.getLsbD_append]

/-- A bit of three values side by side. -/
theorem getLsbD_triple {u w v n : Nat} (h : n = u + w + v) (z : BitVec u) (x : BitVec w) (y : BitVec v) (i : Nat) :
    ((z ++ x ++ y).cast h.symm).getLsbD i =
      if i < v then y.getLsbD i else if i - v < w then x.getLsbD (i - v) else z.getLsbD (i - v - w) := by
  simp [BitVec.getLsbD_append]

/-- The high byte of a value made of two bytes. -/
@[simp] theorem hi8_ofBe16 (a b : Byte) : hi8 (ofBe16 a b) = a := by
  unfold hi8
  ext i hi
  rw [BitVec.getElem_extractLsb', show ofBe16 a b = (a ++ b).cast rfl from rfl, getLsbD_pair rfl,
    if_neg (by omega), BitVec.getLsbD_eq_getElem (by omega)]
  simp

/-- The low byte of a value made of two bytes. -/
@[simp] theorem lo8_ofBe16 (a b : Byte) : lo8 (ofBe16 a b) = b := by
  unfold lo8
  ext i hi
  rw [BitVec.getElem_extractLsb', show ofBe16 a b = (a ++ b).cast rfl from rfl, getLsbD_pair rfl,
    if_pos (by omega), BitVec.getLsbD_eq_getElem (by omega)]
  simp

/-- A value from its two bytes. -/
@[simp] theorem ofBe16_hi8_lo8 (v : Half) : ofBe16 (hi8 v) (lo8 v) = v := by
  ext i hi
  rw [← BitVec.getLsbD_eq_getElem, show ofBe16 (hi8 v) (lo8 v) = (hi8 v ++ lo8 v).cast rfl from rfl, getLsbD_pair rfl]
  split
  · simp [lo8, *]
  · simp [hi8, show 8 + (i - 8) = i by omega, show i - 8 < 8 by omega, BitVec.getLsbD_eq_getElem hi]

/-- The address field in bytes. -/
theorem addressField_eq (op : Byte) : addressField op = 0#8 ++ op ++ 0#8 := by
  unfold addressField
  ext i hi
  rw [← BitVec.getLsbD_eq_getElem (x := (0#8 ++ op ++ 0#8 : Addr)),
    show (0#8 ++ op ++ 0#8 : Addr) = (0#8 ++ op ++ 0#8).cast rfl from rfl, getLsbD_pair rfl,
    show (0#8 ++ op) = (0#8 ++ op).cast rfl from rfl, getLsbD_pair rfl]
  by_cases h1 : i < 8
  · simp [h1]
  · by_cases h2 : i - 8 < 8
    · simp [h1, h2]
    · simp [h1, h2, BitVec.getLsbD_of_ge op (i - 8) (by omega)]

/-- The marker of a header. -/
@[simp] theorem headerMarker_frameHeader (m op : Byte) : headerMarker (frameHeader m op) = m := by
  unfold headerMarker
  ext i hi
  rw [BitVec.getElem_extractLsb', show frameHeader m op = (m ++ addressField op).cast rfl from rfl, getLsbD_pair rfl,
    if_neg (by omega), BitVec.getLsbD_eq_getElem (by omega)]
  simp

/-- The address field of a header. -/
@[simp] theorem headerAddr_frameHeader (m op : Byte) : headerAddr (frameHeader m op) = addressField op := by
  unfold headerAddr
  ext i hi
  rw [BitVec.getElem_extractLsb', show frameHeader m op = (m ++ addressField op).cast rfl from rfl, getLsbD_pair rfl,
    if_pos (by omega), BitVec.getLsbD_eq_getElem (by omega)]
  simp

end Sys2Proof

namespace Sys2Proof.Machine

/-- The request that a frame header and its data make. -/
theorem Req.ofHeader_frameHeader (m op : Byte) (d : List Byte) (l : DataLines) :
    Req.ofHeader (frameHeader m op) d l = ⟨m, 8, 1, 0#8 ++ op ++ 0#8, 24, 1, d, l⟩ := by
  simp [Req.ofHeader, addressField_eq]

/-- A byte of such an address field. -/
theorem address_byte (op : Byte) {k : Nat} (hk : k = 0 ∨ k = 8 ∨ k = 16) :
    (0#8 ++ op ++ 0#8 : Addr).extractLsb' k 8 = if k = 8 then op else 0 := by
  ext i hi
  rw [BitVec.getElem_extractLsb', show (0#8 ++ op ++ 0#8 : Addr) = (0#8 ++ op ++ 0#8).cast rfl from rfl,
    getLsbD_triple rfl]
  rcases hk with rfl | rfl | rfl
  · rw [if_pos (by omega)]; simp
  · rw [if_neg (by omega), if_pos (by omega), if_pos rfl, show 8 + i - 8 = i by omega, BitVec.getLsbD_eq_getElem hi]
  · rw [if_neg (by omega), if_neg (by omega)]; simp

/-- The opcode that such a request carries. -/
@[simp] theorem addrOpcode_append (op : Byte) : addrOpcode (0#8 ++ op ++ 0#8) = op := by
  rw [addrOpcode, address_byte op (by decide), if_pos rfl]

/-- The frame of a request with that address. -/
theorem Req.frame_eq (m op : Byte) (a b n k : Nat) (d : List Byte) (l : DataLines) :
    Req.frame ⟨m, a, b, 0#8 ++ op ++ 0#8, n, k, d, l⟩ = frameBytes m op d := by
  have h1 := address_byte op (k := 16) (by decide)
  have h2 := address_byte op (k := 8) (by decide)
  have h3 := address_byte op (k := 0) (by decide)
  simp only [if_pos, show (16 : Nat) ≠ 8 from by decide, show (0 : Nat) ≠ 8 from by decide, if_false] at h1 h2 h3
  simp only [Req.frame, frameBytes, h1, h2, h3]

end Sys2Proof.Machine

namespace Sys2Proof

@[simp] theorem pixelBytes_length (o : PixOrder) (p : Half) : (pixelBytes o p).length = 2 := by cases o <;> rfl

/-- The payload of one pixel more. -/
theorem pixelPayload_cons (o : PixOrder) (p : Half) (l : List Half) :
    pixelPayload o (p :: l) = pixelBytes o (perm p) ++ pixelPayload o l := rfl

/-- The payload of pixels in two parts. -/
theorem pixelPayload_append (o : PixOrder) (l m : List Half) :
    pixelPayload o (l ++ m) = pixelPayload o l ++ pixelPayload o m := by
  simp [pixelPayload]

@[simp] theorem pixelPayload_length (o : PixOrder) (l : List Half) : (pixelPayload o l).length = 2 * l.length := by
  induction l with
  | nil => rfl
  | cons a l ih => rw [pixelPayload_cons, List.length_append, ih, pixelBytes_length, List.length_cons]; omega

/-- The red field of a word made of three fields. -/
@[simp] theorem red_rgb565 (r : BitVec 5) (g : BitVec 6) (b : BitVec 5) : red (rgb565 r g b) = r := by
  unfold red
  ext i hi
  rw [BitVec.getElem_extractLsb', show rgb565 r g b = (r ++ g ++ b).cast rfl from rfl, getLsbD_triple rfl,
    if_neg (by omega), if_neg (by omega), show 11 + i - 5 - 6 = i by omega, BitVec.getLsbD_eq_getElem hi]

/-- The green field of a word made of three fields. -/
@[simp] theorem green_rgb565 (r : BitVec 5) (g : BitVec 6) (b : BitVec 5) : green (rgb565 r g b) = g := by
  unfold green
  ext i hi
  rw [BitVec.getElem_extractLsb', show rgb565 r g b = (r ++ g ++ b).cast rfl from rfl, getLsbD_triple rfl,
    if_neg (by omega), if_pos (by omega), show 5 + i - 5 = i by omega, BitVec.getLsbD_eq_getElem hi]

/-- The blue field of a word made of three fields. -/
@[simp] theorem blue_rgb565 (r : BitVec 5) (g : BitVec 6) (b : BitVec 5) : blue (rgb565 r g b) = b := by
  unfold blue
  ext i hi
  rw [BitVec.getElem_extractLsb', show rgb565 r g b = (r ++ g ++ b).cast rfl from rfl, getLsbD_triple rfl,
    if_pos (by omega), show 0 + i = i by omega, BitVec.getLsbD_eq_getElem hi]

/-- A word is its three fields. -/
theorem rgb565_fields (v : Half) : rgb565 (red v) (green v) (blue v) = v := by
  ext i hi
  rw [← BitVec.getLsbD_eq_getElem, show rgb565 (red v) (green v) (blue v) = (red v ++ green v ++ blue v).cast rfl from rfl,
    getLsbD_triple rfl]
  split
  · simp [blue, *]
  · split
    · simp [green, *, show 5 + (i - 5) = i by omega]
    · simp [red, show 11 + (i - 5 - 6) = i by omega, show i - 5 - 6 < 5 by omega, BitVec.getLsbD_eq_getElem hi]

end Sys2Proof
end

