-- ==== Sys2Proof/Laws/Memory.lean ====
section
/-! SUPPORT. The laws of memories: read after write, the canonical form kept by every operation, and that equal canonical
memories are equal data. -/

namespace Sys2Proof.Machine

variable {α : Type}

/-- A read after a write to the same address gives the value written. -/
@[simp] theorem Memory.read_write_same (m : Memory α) (a : Nat) (v : α) : Memory.read (Memory.write m a v) a = some v := by
  induction m with
  | nil => simp [Memory.write, Memory.read]
  | cons c m ih =>
    obtain ⟨b, w⟩ := c
    simp only [Memory.write]
    split
    · simp [Memory.read]
    · split
      · simp [Memory.read]
      · rename_i h1 h2
        simp [Memory.read, h2, ih]

/-- A write leaves every other address alone. -/
theorem Memory.read_write_other (m : Memory α) {a x : Nat} (v : α) (h : x ≠ a) :
    Memory.read (Memory.write m a v) x = Memory.read m x := by
  induction m with
  | nil => simp [Memory.write, Memory.read, h]
  | cons c m ih =>
    obtain ⟨b, w⟩ := c
    simp only [Memory.write]
    split
    · simp [Memory.read, h]
    · split
      · rename_i h1 h2
        subst h2
        simp [Memory.read, h]
      · simp [Memory.read, ih]

/-- A read after a write, in one equation. -/
theorem Memory.read_write (m : Memory α) (a x : Nat) (v : α) :
    Memory.read (Memory.write m a v) x = if x = a then some v else Memory.read m x := by
  by_cases h : x = a
  · subst h; simp
  · simp [h, Memory.read_write_other m v h]

/-- The canonical form, one entry at a time. -/
theorem Memory.wf_cons (c : Nat × α) (m : Memory α) :
    Memory.wf (c :: m) = true ↔ (∀ d ∈ m.head?, c.1 < d.1) ∧ Memory.wf m = true := by
  cases m <;> simp [Memory.wf]

/-- The first address of a memory after a write. -/
theorem Memory.head_write (m : Memory α) (a : Nat) (v : α) {c : Nat × α} (h : c ∈ (Memory.write m a v).head?) :
    c.1 = a ∨ c ∈ m.head? := by
  cases m with
  | nil =>
    simp [Memory.write] at h
    exact .inl (h ▸ rfl)
  | cons d m =>
    obtain ⟨b, w⟩ := d
    simp only [Memory.write] at h
    split at h
    · simp at h; exact .inl (h ▸ rfl)
    · split at h
      · simp at h; exact .inl (h ▸ rfl)
      · simp at h; exact .inr (by simp [h])

/-- A write keeps the canonical form. -/
theorem Memory.wf_write (m : Memory α) (a : Nat) (v : α) (h : Memory.wf m = true) : Memory.wf (Memory.write m a v) = true := by
  induction m with
  | nil => rfl
  | cons c m ih =>
    obtain ⟨b, w⟩ := c
    have hc := (Memory.wf_cons _ _).1 h
    simp only [Memory.write]
    split
    · rename_i hlt
      exact (Memory.wf_cons _ _).2 ⟨by simpa using hlt, h⟩
    · split
      · rename_i h1 h2
        subst h2
        exact (Memory.wf_cons _ _).2 ⟨hc.1, hc.2⟩
      · refine (Memory.wf_cons _ _).2 ⟨fun d hd => ?_, ih hc.2⟩
        rcases Memory.head_write m a v hd with hd | hd
        · simp only; omega
        · exact hc.1 d hd

/-- Writing a list keeps the canonical form. -/
theorem Memory.wf_writeList (m : Memory α) (a : Nat) (vs : List α) (h : Memory.wf m = true) :
    Memory.wf (Memory.writeList m a vs) = true := by
  induction vs generalizing m a with
  | nil => exact h
  | cons v vs ih => exact ih _ _ (Memory.wf_write m a v h)

/-- A read after writing a list. -/
theorem Memory.read_writeList (m : Memory α) (a x : Nat) (vs : List α) :
    Memory.read (Memory.writeList m a vs) x =
      if a ≤ x ∧ x < a + vs.length then vs[x - a]? else Memory.read m x := by
  induction vs generalizing m a with
  | nil => simp [Memory.writeList]
  | cons v vs ih =>
    rw [Memory.writeList, ih, Memory.read_write]
    by_cases h1 : x = a
    · subst h1
      rw [if_neg (by omega), if_pos rfl, if_pos (by simp)]
      simp
    · by_cases h2 : a + 1 ≤ x ∧ x < a + 1 + vs.length
      · rw [if_pos h2, if_pos (by simp; omega), show x - a = (x - (a + 1)) + 1 by omega, List.getElem?_cons_succ]
      · rw [if_neg h2, if_neg h1, if_neg (by simp; omega)]

/-- An address below the first listed one holds no value. -/
theorem Memory.read_below (m : Memory α) (h : Memory.wf m = true) (a : Nat) (hb : ∀ d ∈ m.head?, a < d.1) :
    Memory.read m a = none := by
  induction m with
  | nil => rfl
  | cons c m ih =>
    obtain ⟨b, w⟩ := c
    have hab : a < b := hb (b, w) (by simp)
    have hc := (Memory.wf_cons _ _).1 h
    simp only [Memory.read, Nat.ne_of_lt hab, if_false]
    exact ih hc.2 fun d hd => Nat.lt_trans hab (hc.1 d hd)

/-- Canonical memories that read alike are equal. -/
theorem Memory.ext_of_read {m n : Memory α} (hm : Memory.wf m = true) (hn : Memory.wf n = true)
    (h : ∀ a, Memory.read m a = Memory.read n a) : m = n := by
  induction m generalizing n with
  | nil =>
    cases n with
    | nil => rfl
    | cons d n => have := h d.1; simp [Memory.read] at this
  | cons c m ih =>
    obtain ⟨b, v⟩ := c
    have hc := (Memory.wf_cons _ _).1 hm
    cases n with
    | nil => have := h b; simp [Memory.read] at this
    | cons d n =>
      obtain ⟨e, w⟩ := d
      have hd := (Memory.wf_cons _ _).1 hn
      have hbe : b = e := by
        rcases Nat.lt_trichotomy b e with hlt | heq | hgt
        · have := h b
          rw [Memory.read_below ((e, w) :: n) hn b (by simpa using hlt)] at this
          simp [Memory.read] at this
        · exact heq
        · have := h e
          rw [Memory.read_below ((b, v) :: m) hm e (by simpa using hgt)] at this
          simp [Memory.read] at this
      subst hbe
      have hvw : v = w := by simpa [Memory.read] using h b
      subst hvw
      congr 1
      refine ih hc.2 hd.2 fun a => ?_
      by_cases hab : a = b
      · subst hab
        rw [Memory.read_below m hc.2 a hc.1, Memory.read_below n hd.2 a hd.1]
      · simpa [Memory.read, hab] using h a

/-- Placing pixels keeps the canonical form. -/
theorem wf_placePixels (c : Config) (w : Window) (k : Nat) (vs : List Half) (m : Memory Half) (h : Memory.wf m = true) :
    Memory.wf (placePixels c w k vs m) = true := by
  induction vs generalizing k m with
  | nil => exact h
  | cons v vs ih => exact ih _ _ (Memory.wf_write _ _ _ h)

/-- Forgetting leaves canonical memories. -/
@[simp] theorem Panel.wf_forget (p : Panel) : p.forget.wf = true := rfl

/-- A panel given up for lost has canonical memories. -/
@[simp] theorem Panel.wf_abandon (p : Panel) : p.abandon.wf = true := rfl

/-- A change of the reset line keeps the memories canonical. -/
@[simp] theorem Panel.wf_resetLine (p : Panel) (l : Level) (t : Nat) : (p.resetLine l t).wf = true := by
  cases l <;> rfl

/-- Noting a frame keeps the memories. -/
@[simp] theorem Panel.wf_sending (p : Panel) (t : Nat) : (p.sending t).wf = p.wf := rfl

/-- Releasing the line keeps the memories canonical. -/
theorem Panel.wf_lineReleased (p : Panel) (t : Nat) (h : p.wf = true) : (p.lineReleased t).wf = true := by
  unfold Panel.lineReleased
  split
  · simp
  · exact h

/-- A reset in the middle of an operation leaves canonical memories. -/
@[simp] theorem Panel.wf_interrupted (p : Panel) (t : Nat) : (p.interrupted t).wf = true := rfl

/-- The sleep-exit floor keeps the memories. -/
@[simp] theorem Panel.wf_sleepFloor (c : Config) (r : Req) (t : Nat) (p : Panel) : (p.sleepFloor c r t).wf = p.wf := by
  unfold Panel.sleepFloor; split <;> rfl

/-- Taking a frame keeps the memories canonical. -/
theorem Panel.wf_takeFrame (c : Config) (p : Panel) (r : Req) (h : p.wf = true) : (p.takeFrame c r).wf = true := by
  have hr : Memory.wf p.regs = true := by simp [Panel.wf] at h; exact h.1
  have hf : Memory.wf p.fm = true := by simp [Panel.wf] at h; exact h.2
  unfold Panel.takeFrame
  split
  · rfl
  · split
    · split
      · unfold Panel.receivePixels
        split
        · dsimp only
          split
          · simp [Panel.wf, hr, wf_placePixels, hf]
          · simp [Panel.wf, hr, Memory.wf]
        · simp [Panel.wf, hr, Memory.wf]
      · simp [Panel.wf, hr, Memory.wf]
    · have hw := Memory.wf_write p.regs (addrOpcode r.addr).toNat r.data hr
      unfold Panel.receiveCommand
      dsimp only
      split
      · simp [Panel.wf, hf, hw]
      · split <;> simp [Panel.wf, hf, hw]

/-- Receiving a frame keeps the memories canonical. -/
theorem Panel.wf_receive (c : Config) (p : Panel) (r : Req) (t : Nat) (h : p.wf = true) : (p.receive c r t).wf = true := by
  simp [Panel.receive, Panel.wf_takeFrame c p r h]

/-- What the panel has of a frame when it settles keeps the memories canonical. -/
theorem Panel.wf_settle (c : Config) (p : Panel) (r : Req) (o : Completion) (t : Nat) (h : p.wf = true) :
    (Panel.settle c p r o t).wf = true := by
  cases o
  · exact Panel.wf_receive c p r t h
  · simp [Panel.settle, Panel.disturbed]

/-- The scratch buffer's memory stays canonical. -/
theorem Scratch.wf_write (b : Scratch) (a : Nat) (vs : List Byte) (h : Memory.wf b.bytes = true) :
    Memory.wf (b.write a vs).bytes = true := Memory.wf_writeList _ _ _ h

/-- Nothing is listed after reset. -/
theorem reset_memories_wf : State.reset.panel.wf = true ∧ State.reset.scratch = none := ⟨rfl, rfl⟩

end Sys2Proof.Machine
end

