-- ==== Sys2Proof/Laws/State.lean ====
section
/-! SUPPORT. The effect of each shared state update on each field, one lemma per field, and the fields an update leaves
alone. -/

namespace Sys2Proof.Machine

section log
variable (e : Event) (s : State)
@[simp] theorem State.log_cfg : (s.log e).cfg = s.cfg := rfl
@[simp] theorem State.log_handle : (s.log e).handle = s.handle := rfl
@[simp] theorem State.log_rstN : (s.log e).rstN = s.rstN := rfl
@[simp] theorem State.log_initStatus : (s.log e).initStatus = s.initStatus := rfl
@[simp] theorem State.log_result : (s.log e).result = s.result := rfl
@[simp] theorem State.log_valid : (s.log e).valid = s.valid := rfl
@[simp] theorem State.log_phase : (s.log e).phase = s.phase := rfl
@[simp] theorem State.log_idx : (s.log e).idx = s.idx := rfl
@[simp] theorem State.log_tMark : (s.log e).tMark = s.tMark := rfl
@[simp] theorem State.log_rstCfg : (s.log e).rstCfg = s.rstCfg := rfl
@[simp] theorem State.log_win : (s.log e).win = s.win := rfl
@[simp] theorem State.log_hdr : (s.log e).hdr = s.hdr := rfl
@[simp] theorem State.log_pbuf : (s.log e).pbuf = s.pbuf := rfl
@[simp] theorem State.log_plen : (s.log e).plen = s.plen := rfl
@[simp] theorem State.log_px : (s.log e).px = s.px := rfl
@[simp] theorem State.log_pcount : (s.log e).pcount = s.pcount := rfl
@[simp] theorem State.log_src : (s.log e).src = s.src := rfl
@[simp] theorem State.log_scratch : (s.log e).scratch = s.scratch := rfl
@[simp] theorem State.log_inflight : (s.log e).inflight = s.inflight := rfl
@[simp] theorem State.log_now : (s.log e).now = s.now := rfl
@[simp] theorem State.log_hostPort : (s.log e).hostPort = s.hostPort := rfl
@[simp] theorem State.log_submitAns : (s.log e).submitAns = s.submitAns := rfl
@[simp] theorem State.log_completion : (s.log e).completion = s.completion := rfl
@[simp] theorem State.log_allocAns : (s.log e).allocAns = s.allocAns := rfl
@[simp] theorem State.log_panel : (s.log e).panel = s.panel := rfl
@[simp] theorem State.log_allocs : (s.log e).allocs = s.allocs := rfl
@[simp] theorem State.log_moves : (s.log e).moves = s.moves := rfl
@[simp] theorem State.log_trace : (s.log e).trace = e :: s.trace := rfl
end log

section goto
variable (p : Phase) (s : State)
@[simp] theorem State.goto_cfg : (s.goto p).cfg = s.cfg := rfl
@[simp] theorem State.goto_handle : (s.goto p).handle = s.handle := rfl
@[simp] theorem State.goto_rstN : (s.goto p).rstN = s.rstN := rfl
@[simp] theorem State.goto_initStatus : (s.goto p).initStatus = s.initStatus := rfl
@[simp] theorem State.goto_result : (s.goto p).result = s.result := rfl
@[simp] theorem State.goto_valid : (s.goto p).valid = s.valid := rfl
@[simp] theorem State.goto_phase : (s.goto p).phase = p := rfl
@[simp] theorem State.goto_idx : (s.goto p).idx = s.idx := rfl
@[simp] theorem State.goto_tMark : (s.goto p).tMark = s.tMark := rfl
@[simp] theorem State.goto_rstCfg : (s.goto p).rstCfg = s.rstCfg := rfl
@[simp] theorem State.goto_win : (s.goto p).win = s.win := rfl
@[simp] theorem State.goto_hdr : (s.goto p).hdr = s.hdr := rfl
@[simp] theorem State.goto_pbuf : (s.goto p).pbuf = s.pbuf := rfl
@[simp] theorem State.goto_plen : (s.goto p).plen = s.plen := rfl
@[simp] theorem State.goto_px : (s.goto p).px = s.px := rfl
@[simp] theorem State.goto_pcount : (s.goto p).pcount = s.pcount := rfl
@[simp] theorem State.goto_src : (s.goto p).src = s.src := rfl
@[simp] theorem State.goto_scratch : (s.goto p).scratch = s.scratch := rfl
@[simp] theorem State.goto_inflight : (s.goto p).inflight = s.inflight := rfl
@[simp] theorem State.goto_now : (s.goto p).now = s.now := rfl
@[simp] theorem State.goto_hostPort : (s.goto p).hostPort = s.hostPort := rfl
@[simp] theorem State.goto_submitAns : (s.goto p).submitAns = s.submitAns := rfl
@[simp] theorem State.goto_completion : (s.goto p).completion = s.completion := rfl
@[simp] theorem State.goto_allocAns : (s.goto p).allocAns = s.allocAns := rfl
@[simp] theorem State.goto_panel : (s.goto p).panel = s.panel := rfl
@[simp] theorem State.goto_allocs : (s.goto p).allocs = s.allocs := rfl
@[simp] theorem State.goto_moves : (s.goto p).moves = s.moves := rfl
@[simp] theorem State.goto_trace : (s.goto p).trace = s.trace := rfl
end goto

section markTime
variable (s : State)
@[simp] theorem State.markTime_cfg : (s.markTime).cfg = s.cfg := rfl
@[simp] theorem State.markTime_handle : (s.markTime).handle = s.handle := rfl
@[simp] theorem State.markTime_rstN : (s.markTime).rstN = s.rstN := rfl
@[simp] theorem State.markTime_initStatus : (s.markTime).initStatus = s.initStatus := rfl
@[simp] theorem State.markTime_result : (s.markTime).result = s.result := rfl
@[simp] theorem State.markTime_valid : (s.markTime).valid = s.valid := rfl
@[simp] theorem State.markTime_phase : (s.markTime).phase = s.phase := rfl
@[simp] theorem State.markTime_idx : (s.markTime).idx = s.idx := rfl
@[simp] theorem State.markTime_tMark : (s.markTime).tMark = s.now := rfl
@[simp] theorem State.markTime_rstCfg : (s.markTime).rstCfg = s.rstCfg := rfl
@[simp] theorem State.markTime_win : (s.markTime).win = s.win := rfl
@[simp] theorem State.markTime_hdr : (s.markTime).hdr = s.hdr := rfl
@[simp] theorem State.markTime_pbuf : (s.markTime).pbuf = s.pbuf := rfl
@[simp] theorem State.markTime_plen : (s.markTime).plen = s.plen := rfl
@[simp] theorem State.markTime_px : (s.markTime).px = s.px := rfl
@[simp] theorem State.markTime_pcount : (s.markTime).pcount = s.pcount := rfl
@[simp] theorem State.markTime_src : (s.markTime).src = s.src := rfl
@[simp] theorem State.markTime_scratch : (s.markTime).scratch = s.scratch := rfl
@[simp] theorem State.markTime_inflight : (s.markTime).inflight = s.inflight := rfl
@[simp] theorem State.markTime_now : (s.markTime).now = s.now := rfl
@[simp] theorem State.markTime_hostPort : (s.markTime).hostPort = s.hostPort := rfl
@[simp] theorem State.markTime_submitAns : (s.markTime).submitAns = s.submitAns := rfl
@[simp] theorem State.markTime_completion : (s.markTime).completion = s.completion := rfl
@[simp] theorem State.markTime_allocAns : (s.markTime).allocAns = s.allocAns := rfl
@[simp] theorem State.markTime_panel : (s.markTime).panel = s.panel := rfl
@[simp] theorem State.markTime_allocs : (s.markTime).allocs = s.allocs := rfl
@[simp] theorem State.markTime_moves : (s.markTime).moves = s.moves := rfl
@[simp] theorem State.markTime_trace : (s.markTime).trace = s.trace := rfl
end markTime

section driveRst
variable (l : Level) (s : State)
@[simp] theorem State.driveRst_cfg : (s.driveRst l).cfg = s.cfg := rfl
@[simp] theorem State.driveRst_handle : (s.driveRst l).handle = s.handle := rfl
@[simp] theorem State.driveRst_rstN : (s.driveRst l).rstN = l := rfl
@[simp] theorem State.driveRst_initStatus : (s.driveRst l).initStatus = s.initStatus := rfl
@[simp] theorem State.driveRst_result : (s.driveRst l).result = s.result := rfl
@[simp] theorem State.driveRst_valid : (s.driveRst l).valid = s.valid := rfl
@[simp] theorem State.driveRst_phase : (s.driveRst l).phase = s.phase := rfl
@[simp] theorem State.driveRst_idx : (s.driveRst l).idx = s.idx := rfl
@[simp] theorem State.driveRst_tMark : (s.driveRst l).tMark = s.tMark := rfl
@[simp] theorem State.driveRst_rstCfg : (s.driveRst l).rstCfg = s.rstCfg := rfl
@[simp] theorem State.driveRst_win : (s.driveRst l).win = s.win := rfl
@[simp] theorem State.driveRst_hdr : (s.driveRst l).hdr = s.hdr := rfl
@[simp] theorem State.driveRst_pbuf : (s.driveRst l).pbuf = s.pbuf := rfl
@[simp] theorem State.driveRst_plen : (s.driveRst l).plen = s.plen := rfl
@[simp] theorem State.driveRst_px : (s.driveRst l).px = s.px := rfl
@[simp] theorem State.driveRst_pcount : (s.driveRst l).pcount = s.pcount := rfl
@[simp] theorem State.driveRst_src : (s.driveRst l).src = s.src := rfl
@[simp] theorem State.driveRst_scratch : (s.driveRst l).scratch = s.scratch := rfl
@[simp] theorem State.driveRst_inflight : (s.driveRst l).inflight = s.inflight := rfl
@[simp] theorem State.driveRst_now : (s.driveRst l).now = s.now := rfl
@[simp] theorem State.driveRst_hostPort : (s.driveRst l).hostPort = s.hostPort := rfl
@[simp] theorem State.driveRst_submitAns : (s.driveRst l).submitAns = s.submitAns := rfl
@[simp] theorem State.driveRst_completion : (s.driveRst l).completion = s.completion := rfl
@[simp] theorem State.driveRst_allocAns : (s.driveRst l).allocAns = s.allocAns := rfl
@[simp] theorem State.driveRst_panel : (s.driveRst l).panel = s.panel.resetLine l s.now := rfl
@[simp] theorem State.driveRst_allocs : (s.driveRst l).allocs = s.allocs := rfl
@[simp] theorem State.driveRst_moves : (s.driveRst l).moves = s.moves := rfl
@[simp] theorem State.driveRst_trace : (s.driveRst l).trace = .rstDrive l s.now :: s.trace := rfl
end driveRst

section loadParams
variable (ps : List Byte) (s : State)
@[simp] theorem State.loadParams_cfg : (s.loadParams ps).cfg = s.cfg := rfl
@[simp] theorem State.loadParams_handle : (s.loadParams ps).handle = s.handle := rfl
@[simp] theorem State.loadParams_rstN : (s.loadParams ps).rstN = s.rstN := rfl
@[simp] theorem State.loadParams_initStatus : (s.loadParams ps).initStatus = s.initStatus := rfl
@[simp] theorem State.loadParams_result : (s.loadParams ps).result = s.result := rfl
@[simp] theorem State.loadParams_valid : (s.loadParams ps).valid = s.valid := rfl
@[simp] theorem State.loadParams_phase : (s.loadParams ps).phase = s.phase := rfl
@[simp] theorem State.loadParams_idx : (s.loadParams ps).idx = s.idx := rfl
@[simp] theorem State.loadParams_tMark : (s.loadParams ps).tMark = s.tMark := rfl
@[simp] theorem State.loadParams_rstCfg : (s.loadParams ps).rstCfg = s.rstCfg := rfl
@[simp] theorem State.loadParams_win : (s.loadParams ps).win = s.win := rfl
@[simp] theorem State.loadParams_hdr : (s.loadParams ps).hdr = s.hdr := rfl
@[simp] theorem State.loadParams_pbuf : (s.loadParams ps).pbuf = ps ++ s.pbuf.drop ps.length := rfl
@[simp] theorem State.loadParams_plen : (s.loadParams ps).plen = ps.length := rfl
@[simp] theorem State.loadParams_px : (s.loadParams ps).px = s.px := rfl
@[simp] theorem State.loadParams_pcount : (s.loadParams ps).pcount = s.pcount := rfl
@[simp] theorem State.loadParams_src : (s.loadParams ps).src = s.src := rfl
@[simp] theorem State.loadParams_scratch : (s.loadParams ps).scratch = s.scratch := rfl
@[simp] theorem State.loadParams_inflight : (s.loadParams ps).inflight = s.inflight := rfl
@[simp] theorem State.loadParams_now : (s.loadParams ps).now = s.now := rfl
@[simp] theorem State.loadParams_hostPort : (s.loadParams ps).hostPort = s.hostPort := rfl
@[simp] theorem State.loadParams_submitAns : (s.loadParams ps).submitAns = s.submitAns := rfl
@[simp] theorem State.loadParams_completion : (s.loadParams ps).completion = s.completion := rfl
@[simp] theorem State.loadParams_allocAns : (s.loadParams ps).allocAns = s.allocAns := rfl
@[simp] theorem State.loadParams_panel : (s.loadParams ps).panel = s.panel := rfl
@[simp] theorem State.loadParams_allocs : (s.loadParams ps).allocs = s.allocs := rfl
@[simp] theorem State.loadParams_moves : (s.loadParams ps).moves = s.moves := rfl
@[simp] theorem State.loadParams_trace : (s.loadParams ps).trace = s.trace := rfl
end loadParams

section accept
variable (op : Instr) (s : State)
@[simp] theorem State.accept_cfg : (s.accept op).cfg = s.cfg := rfl
@[simp] theorem State.accept_handle : (s.accept op).handle = s.handle := rfl
@[simp] theorem State.accept_rstN : (s.accept op).rstN = s.rstN := rfl
@[simp] theorem State.accept_initStatus : (s.accept op).initStatus = s.initStatus := rfl
@[simp] theorem State.accept_result : (s.accept op).result = s.result := rfl
@[simp] theorem State.accept_valid : (s.accept op).valid = false := rfl
@[simp] theorem State.accept_phase : (s.accept op).phase = s.phase := rfl
@[simp] theorem State.accept_idx : (s.accept op).idx = s.idx := rfl
@[simp] theorem State.accept_tMark : (s.accept op).tMark = s.tMark := rfl
@[simp] theorem State.accept_rstCfg : (s.accept op).rstCfg = s.rstCfg := rfl
@[simp] theorem State.accept_win : (s.accept op).win = s.win := rfl
@[simp] theorem State.accept_hdr : (s.accept op).hdr = s.hdr := rfl
@[simp] theorem State.accept_pbuf : (s.accept op).pbuf = s.pbuf := rfl
@[simp] theorem State.accept_plen : (s.accept op).plen = s.plen := rfl
@[simp] theorem State.accept_px : (s.accept op).px = s.px := rfl
@[simp] theorem State.accept_pcount : (s.accept op).pcount = s.pcount := rfl
@[simp] theorem State.accept_src : (s.accept op).src = s.src := rfl
@[simp] theorem State.accept_scratch : (s.accept op).scratch = s.scratch := rfl
@[simp] theorem State.accept_inflight : (s.accept op).inflight = s.inflight := rfl
@[simp] theorem State.accept_now : (s.accept op).now = s.now := rfl
@[simp] theorem State.accept_hostPort : (s.accept op).hostPort = none := rfl
@[simp] theorem State.accept_submitAns : (s.accept op).submitAns = s.submitAns := rfl
@[simp] theorem State.accept_completion : (s.accept op).completion = s.completion := rfl
@[simp] theorem State.accept_allocAns : (s.accept op).allocAns = s.allocAns := rfl
@[simp] theorem State.accept_panel : (s.accept op).panel = s.panel := rfl
@[simp] theorem State.accept_allocs : (s.accept op).allocs = s.allocs := rfl
@[simp] theorem State.accept_moves : (s.accept op).moves = s.moves := rfl
@[simp] theorem State.accept_trace : (s.accept op).trace = .accepted op s.now :: s.trace := rfl
end accept

/-- The events of the release of a scratch buffer: one if there is a buffer. -/
def released (b : Option Scratch) (t : Nat) : List Event := match b with | none => [] | some _ => [.freed t]
@[simp] theorem released_none (t : Nat) : released none t = [] := rfl
@[simp] theorem released_some (b : Scratch) (t : Nat) : released (some b) t = [.freed t] := rfl
/-- Nothing but a release is among them. -/
theorem mem_released {b : Option Scratch} {t : Nat} {e : Event} (h : e ∈ released b t) : e = .freed t := by
  cases b <;> simp_all

section free
variable (s : State)
@[simp] theorem State.free_cfg : (s.free).cfg = s.cfg := by unfold State.free; split <;> rfl
@[simp] theorem State.free_handle : (s.free).handle = s.handle := by unfold State.free; split <;> rfl
@[simp] theorem State.free_rstN : (s.free).rstN = s.rstN := by unfold State.free; split <;> rfl
@[simp] theorem State.free_initStatus : (s.free).initStatus = s.initStatus := by unfold State.free; split <;> rfl
@[simp] theorem State.free_result : (s.free).result = s.result := by unfold State.free; split <;> rfl
@[simp] theorem State.free_valid : (s.free).valid = s.valid := by unfold State.free; split <;> rfl
@[simp] theorem State.free_phase : (s.free).phase = s.phase := by unfold State.free; split <;> rfl
@[simp] theorem State.free_idx : (s.free).idx = s.idx := by unfold State.free; split <;> rfl
@[simp] theorem State.free_tMark : (s.free).tMark = s.tMark := by unfold State.free; split <;> rfl
@[simp] theorem State.free_rstCfg : (s.free).rstCfg = s.rstCfg := by unfold State.free; split <;> rfl
@[simp] theorem State.free_win : (s.free).win = s.win := by unfold State.free; split <;> rfl
@[simp] theorem State.free_hdr : (s.free).hdr = s.hdr := by unfold State.free; split <;> rfl
@[simp] theorem State.free_pbuf : (s.free).pbuf = s.pbuf := by unfold State.free; split <;> rfl
@[simp] theorem State.free_plen : (s.free).plen = s.plen := by unfold State.free; split <;> rfl
@[simp] theorem State.free_px : (s.free).px = s.px := by unfold State.free; split <;> rfl
@[simp] theorem State.free_pcount : (s.free).pcount = s.pcount := by unfold State.free; split <;> rfl
@[simp] theorem State.free_src : (s.free).src = s.src := by unfold State.free; split <;> rfl
@[simp] theorem State.free_scratch : (s.free).scratch = none := by unfold State.free; split <;> simp_all
@[simp] theorem State.free_inflight : (s.free).inflight = s.inflight := by unfold State.free; split <;> rfl
@[simp] theorem State.free_now : (s.free).now = s.now := by unfold State.free; split <;> rfl
@[simp] theorem State.free_hostPort : (s.free).hostPort = s.hostPort := by unfold State.free; split <;> rfl
@[simp] theorem State.free_submitAns : (s.free).submitAns = s.submitAns := by unfold State.free; split <;> rfl
@[simp] theorem State.free_completion : (s.free).completion = s.completion := by unfold State.free; split <;> rfl
@[simp] theorem State.free_allocAns : (s.free).allocAns = s.allocAns := by unfold State.free; split <;> rfl
@[simp] theorem State.free_panel : (s.free).panel = s.panel := by unfold State.free; split <;> rfl
@[simp] theorem State.free_allocs : (s.free).allocs = s.allocs := by unfold State.free; split <;> rfl
@[simp] theorem State.free_moves : (s.free).moves = s.moves := by unfold State.free; split <;> rfl
@[simp] theorem State.free_trace : (s.free).trace = released s.scratch s.now ++ s.trace := by unfold State.free; split <;> simp_all
end free

section finish
variable (r : Result) (s : State)
@[simp] theorem State.finish_cfg : (s.finish r).cfg = s.cfg := by simp [State.finish]
@[simp] theorem State.finish_handle : (s.finish r).handle = s.handle := by simp [State.finish]
@[simp] theorem State.finish_rstN : (s.finish r).rstN = s.rstN := by simp [State.finish]
@[simp] theorem State.finish_initStatus : (s.finish r).initStatus = s.initStatus := by simp [State.finish]
@[simp] theorem State.finish_result : (s.finish r).result = r := by simp [State.finish]
@[simp] theorem State.finish_valid : (s.finish r).valid = true := by simp [State.finish]
@[simp] theorem State.finish_phase : (s.finish r).phase = .idle := by simp [State.finish]
@[simp] theorem State.finish_idx : (s.finish r).idx = s.idx := by simp [State.finish]
@[simp] theorem State.finish_tMark : (s.finish r).tMark = s.tMark := by simp [State.finish]
@[simp] theorem State.finish_rstCfg : (s.finish r).rstCfg = s.rstCfg := by simp [State.finish]
@[simp] theorem State.finish_win : (s.finish r).win = s.win := by simp [State.finish]
@[simp] theorem State.finish_hdr : (s.finish r).hdr = s.hdr := by simp [State.finish]
@[simp] theorem State.finish_pbuf : (s.finish r).pbuf = s.pbuf := by simp [State.finish]
@[simp] theorem State.finish_plen : (s.finish r).plen = s.plen := by simp [State.finish]
@[simp] theorem State.finish_px : (s.finish r).px = s.px := by simp [State.finish]
@[simp] theorem State.finish_pcount : (s.finish r).pcount = s.pcount := by simp [State.finish]
@[simp] theorem State.finish_src : (s.finish r).src = s.src := by simp [State.finish]
@[simp] theorem State.finish_scratch : (s.finish r).scratch = none := by simp [State.finish]
@[simp] theorem State.finish_inflight : (s.finish r).inflight = s.inflight := by simp [State.finish]
@[simp] theorem State.finish_now : (s.finish r).now = s.now := by simp [State.finish]
@[simp] theorem State.finish_hostPort : (s.finish r).hostPort = s.hostPort := by simp [State.finish]
@[simp] theorem State.finish_submitAns : (s.finish r).submitAns = s.submitAns := by simp [State.finish]
@[simp] theorem State.finish_completion : (s.finish r).completion = s.completion := by simp [State.finish]
@[simp] theorem State.finish_allocAns : (s.finish r).allocAns = s.allocAns := by simp [State.finish]
@[simp] theorem State.finish_panel : (s.finish r).panel = s.panel := by simp [State.finish]
@[simp] theorem State.finish_allocs : (s.finish r).allocs = s.allocs := by simp [State.finish]
@[simp] theorem State.finish_moves : (s.finish r).moves = s.moves := by simp [State.finish]
@[simp] theorem State.finish_trace : (s.finish r).trace = .returned r s.now :: s.free.trace := by simp [State.finish]
end finish

section raise
variable (r : Result) (s : State)
@[simp] theorem State.raise_cfg : (s.raise r).cfg = s.cfg := by simp [State.raise]
@[simp] theorem State.raise_handle : (s.raise r).handle = s.handle := by simp [State.raise]
@[simp] theorem State.raise_rstN : (s.raise r).rstN = s.rstN := by simp [State.raise]
@[simp] theorem State.raise_initStatus : (s.raise r).initStatus = s.initStatus := by simp [State.raise]
@[simp] theorem State.raise_result : (s.raise r).result = r := by simp [State.raise]
@[simp] theorem State.raise_valid : (s.raise r).valid = true := by simp [State.raise]
@[simp] theorem State.raise_phase : (s.raise r).phase = .idle := by simp [State.raise]
@[simp] theorem State.raise_idx : (s.raise r).idx = s.idx := by simp [State.raise]
@[simp] theorem State.raise_tMark : (s.raise r).tMark = s.tMark := by simp [State.raise]
@[simp] theorem State.raise_rstCfg : (s.raise r).rstCfg = s.rstCfg := by simp [State.raise]
@[simp] theorem State.raise_win : (s.raise r).win = s.win := by simp [State.raise]
@[simp] theorem State.raise_hdr : (s.raise r).hdr = s.hdr := by simp [State.raise]
@[simp] theorem State.raise_pbuf : (s.raise r).pbuf = s.pbuf := by simp [State.raise]
@[simp] theorem State.raise_plen : (s.raise r).plen = s.plen := by simp [State.raise]
@[simp] theorem State.raise_px : (s.raise r).px = s.px := by simp [State.raise]
@[simp] theorem State.raise_pcount : (s.raise r).pcount = s.pcount := by simp [State.raise]
@[simp] theorem State.raise_src : (s.raise r).src = s.src := by simp [State.raise]
@[simp] theorem State.raise_scratch : (s.raise r).scratch = none := by simp [State.raise]
@[simp] theorem State.raise_inflight : (s.raise r).inflight = s.inflight := by simp [State.raise]
@[simp] theorem State.raise_now : (s.raise r).now = s.now := by simp [State.raise]
@[simp] theorem State.raise_hostPort : (s.raise r).hostPort = s.hostPort := by simp [State.raise]
@[simp] theorem State.raise_submitAns : (s.raise r).submitAns = s.submitAns := by simp [State.raise]
@[simp] theorem State.raise_completion : (s.raise r).completion = s.completion := by simp [State.raise]
@[simp] theorem State.raise_allocAns : (s.raise r).allocAns = s.allocAns := by simp [State.raise]
@[simp] theorem State.raise_panel : (s.raise r).panel = s.panel := by simp [State.raise]
@[simp] theorem State.raise_allocs : (s.raise r).allocs = s.allocs := by simp [State.raise]
@[simp] theorem State.raise_moves : (s.raise r).moves = s.moves := by simp [State.raise]
@[simp] theorem State.raise_trace : (s.raise r).trace = .returned r s.now :: s.free.trace := by simp [State.raise]
end raise

section returnOk
variable (s : State)
@[simp] theorem State.returnOk_cfg : (s.returnOk).cfg = s.cfg := by simp [State.returnOk]
@[simp] theorem State.returnOk_handle : (s.returnOk).handle = s.handle := by simp [State.returnOk]
@[simp] theorem State.returnOk_rstN : (s.returnOk).rstN = s.rstN := by simp [State.returnOk]
@[simp] theorem State.returnOk_initStatus : (s.returnOk).initStatus = s.initStatus := by simp [State.returnOk]
@[simp] theorem State.returnOk_result : (s.returnOk).result = .ok := by simp [State.returnOk]
@[simp] theorem State.returnOk_valid : (s.returnOk).valid = true := by simp [State.returnOk]
@[simp] theorem State.returnOk_phase : (s.returnOk).phase = .idle := by simp [State.returnOk]
@[simp] theorem State.returnOk_idx : (s.returnOk).idx = s.idx := by simp [State.returnOk]
@[simp] theorem State.returnOk_tMark : (s.returnOk).tMark = s.tMark := by simp [State.returnOk]
@[simp] theorem State.returnOk_rstCfg : (s.returnOk).rstCfg = s.rstCfg := by simp [State.returnOk]
@[simp] theorem State.returnOk_win : (s.returnOk).win = s.win := by simp [State.returnOk]
@[simp] theorem State.returnOk_hdr : (s.returnOk).hdr = s.hdr := by simp [State.returnOk]
@[simp] theorem State.returnOk_pbuf : (s.returnOk).pbuf = s.pbuf := by simp [State.returnOk]
@[simp] theorem State.returnOk_plen : (s.returnOk).plen = s.plen := by simp [State.returnOk]
@[simp] theorem State.returnOk_px : (s.returnOk).px = s.px := by simp [State.returnOk]
@[simp] theorem State.returnOk_pcount : (s.returnOk).pcount = s.pcount := by simp [State.returnOk]
@[simp] theorem State.returnOk_src : (s.returnOk).src = s.src := by simp [State.returnOk]
@[simp] theorem State.returnOk_scratch : (s.returnOk).scratch = none := by simp [State.returnOk]
@[simp] theorem State.returnOk_inflight : (s.returnOk).inflight = s.inflight := by simp [State.returnOk]
@[simp] theorem State.returnOk_now : (s.returnOk).now = s.now := by simp [State.returnOk]
@[simp] theorem State.returnOk_hostPort : (s.returnOk).hostPort = s.hostPort := by simp [State.returnOk]
@[simp] theorem State.returnOk_submitAns : (s.returnOk).submitAns = s.submitAns := by simp [State.returnOk]
@[simp] theorem State.returnOk_completion : (s.returnOk).completion = s.completion := by simp [State.returnOk]
@[simp] theorem State.returnOk_allocAns : (s.returnOk).allocAns = s.allocAns := by simp [State.returnOk]
@[simp] theorem State.returnOk_panel : (s.returnOk).panel = s.panel := by simp [State.returnOk]
@[simp] theorem State.returnOk_allocs : (s.returnOk).allocs = s.allocs := by simp [State.returnOk]
@[simp] theorem State.returnOk_moves : (s.returnOk).moves = s.moves := by simp [State.returnOk]
@[simp] theorem State.returnOk_trace : (s.returnOk).trace = .returned .ok s.now :: s.free.trace := by simp [State.returnOk]
end returnOk

section xportFail
variable (e : XErr) (s : State)
@[simp] theorem State.xportFail_cfg : (s.xportFail e).cfg = s.cfg := by simp [State.xportFail]
@[simp] theorem State.xportFail_handle : (s.xportFail e).handle = s.handle := by simp [State.xportFail]
@[simp] theorem State.xportFail_rstN : (s.xportFail e).rstN = s.rstN := by simp [State.xportFail]
@[simp] theorem State.xportFail_initStatus : (s.xportFail e).initStatus = s.initStatus := by simp [State.xportFail]
@[simp] theorem State.xportFail_result : (s.xportFail e).result = .xportFail e := by simp [State.xportFail]
@[simp] theorem State.xportFail_valid : (s.xportFail e).valid = true := by simp [State.xportFail]
@[simp] theorem State.xportFail_phase : (s.xportFail e).phase = .idle := by simp [State.xportFail]
@[simp] theorem State.xportFail_idx : (s.xportFail e).idx = s.idx := by simp [State.xportFail]
@[simp] theorem State.xportFail_tMark : (s.xportFail e).tMark = s.tMark := by simp [State.xportFail]
@[simp] theorem State.xportFail_rstCfg : (s.xportFail e).rstCfg = s.rstCfg := by simp [State.xportFail]
@[simp] theorem State.xportFail_win : (s.xportFail e).win = s.win := by simp [State.xportFail]
@[simp] theorem State.xportFail_hdr : (s.xportFail e).hdr = s.hdr := by simp [State.xportFail]
@[simp] theorem State.xportFail_pbuf : (s.xportFail e).pbuf = s.pbuf := by simp [State.xportFail]
@[simp] theorem State.xportFail_plen : (s.xportFail e).plen = s.plen := by simp [State.xportFail]
@[simp] theorem State.xportFail_px : (s.xportFail e).px = s.px := by simp [State.xportFail]
@[simp] theorem State.xportFail_pcount : (s.xportFail e).pcount = s.pcount := by simp [State.xportFail]
@[simp] theorem State.xportFail_src : (s.xportFail e).src = s.src := by simp [State.xportFail]
@[simp] theorem State.xportFail_scratch : (s.xportFail e).scratch = none := by simp [State.xportFail]
@[simp] theorem State.xportFail_inflight : (s.xportFail e).inflight = s.inflight := by simp [State.xportFail]
@[simp] theorem State.xportFail_now : (s.xportFail e).now = s.now := by simp [State.xportFail]
@[simp] theorem State.xportFail_hostPort : (s.xportFail e).hostPort = s.hostPort := by simp [State.xportFail]
@[simp] theorem State.xportFail_submitAns : (s.xportFail e).submitAns = s.submitAns := by simp [State.xportFail]
@[simp] theorem State.xportFail_completion : (s.xportFail e).completion = s.completion := by simp [State.xportFail]
@[simp] theorem State.xportFail_allocAns : (s.xportFail e).allocAns = s.allocAns := by simp [State.xportFail]
@[simp] theorem State.xportFail_panel : (s.xportFail e).panel = s.panel := by simp [State.xportFail]
@[simp] theorem State.xportFail_allocs : (s.xportFail e).allocs = s.allocs := by simp [State.xportFail]
@[simp] theorem State.xportFail_moves : (s.xportFail e).moves = s.moves := by simp [State.xportFail]
@[simp] theorem State.xportFail_trace : (s.xportFail e).trace = .returned (.xportFail e) s.now :: s.free.trace := by simp [State.xportFail]
end xportFail

section initSeqFail
variable (op : Byte) (e : XErr) (s : State)
@[simp] theorem State.initSeqFail_cfg : (s.initSeqFail op e).cfg = s.cfg := by simp [State.initSeqFail]
@[simp] theorem State.initSeqFail_handle : (s.initSeqFail op e).handle = s.handle := by simp [State.initSeqFail]
@[simp] theorem State.initSeqFail_rstN : (s.initSeqFail op e).rstN = s.rstN := by simp [State.initSeqFail]
@[simp] theorem State.initSeqFail_initStatus : (s.initSeqFail op e).initStatus = .failed := by simp [State.initSeqFail]
@[simp] theorem State.initSeqFail_result : (s.initSeqFail op e).result = .initSeqFail s.idx op e := by simp [State.initSeqFail]
@[simp] theorem State.initSeqFail_valid : (s.initSeqFail op e).valid = true := by simp [State.initSeqFail]
@[simp] theorem State.initSeqFail_phase : (s.initSeqFail op e).phase = .idle := by simp [State.initSeqFail]
@[simp] theorem State.initSeqFail_idx : (s.initSeqFail op e).idx = s.idx := by simp [State.initSeqFail]
@[simp] theorem State.initSeqFail_tMark : (s.initSeqFail op e).tMark = s.tMark := by simp [State.initSeqFail]
@[simp] theorem State.initSeqFail_rstCfg : (s.initSeqFail op e).rstCfg = s.rstCfg := by simp [State.initSeqFail]
@[simp] theorem State.initSeqFail_win : (s.initSeqFail op e).win = s.win := by simp [State.initSeqFail]
@[simp] theorem State.initSeqFail_hdr : (s.initSeqFail op e).hdr = s.hdr := by simp [State.initSeqFail]
@[simp] theorem State.initSeqFail_pbuf : (s.initSeqFail op e).pbuf = s.pbuf := by simp [State.initSeqFail]
@[simp] theorem State.initSeqFail_plen : (s.initSeqFail op e).plen = s.plen := by simp [State.initSeqFail]
@[simp] theorem State.initSeqFail_px : (s.initSeqFail op e).px = s.px := by simp [State.initSeqFail]
@[simp] theorem State.initSeqFail_pcount : (s.initSeqFail op e).pcount = s.pcount := by simp [State.initSeqFail]
@[simp] theorem State.initSeqFail_src : (s.initSeqFail op e).src = s.src := by simp [State.initSeqFail]
@[simp] theorem State.initSeqFail_scratch : (s.initSeqFail op e).scratch = none := by simp [State.initSeqFail]
@[simp] theorem State.initSeqFail_inflight : (s.initSeqFail op e).inflight = s.inflight := by simp [State.initSeqFail]
@[simp] theorem State.initSeqFail_now : (s.initSeqFail op e).now = s.now := by simp [State.initSeqFail]
@[simp] theorem State.initSeqFail_hostPort : (s.initSeqFail op e).hostPort = s.hostPort := by simp [State.initSeqFail]
@[simp] theorem State.initSeqFail_submitAns : (s.initSeqFail op e).submitAns = s.submitAns := by simp [State.initSeqFail]
@[simp] theorem State.initSeqFail_completion : (s.initSeqFail op e).completion = s.completion := by simp [State.initSeqFail]
@[simp] theorem State.initSeqFail_allocAns : (s.initSeqFail op e).allocAns = s.allocAns := by simp [State.initSeqFail]
@[simp] theorem State.initSeqFail_panel : (s.initSeqFail op e).panel = s.panel.abandon := by simp [State.initSeqFail]
@[simp] theorem State.initSeqFail_allocs : (s.initSeqFail op e).allocs = s.allocs := by simp [State.initSeqFail]
@[simp] theorem State.initSeqFail_moves : (s.initSeqFail op e).moves = s.moves := by simp [State.initSeqFail]
@[simp] theorem State.initSeqFail_trace : (s.initSeqFail op e).trace = .returned (.initSeqFail s.idx op e) s.now :: s.free.trace := by simp [State.initSeqFail]
end initSeqFail

/-- Without a scratch buffer there is nothing to free. -/
theorem State.free_of_no_scratch {s : State} (h : s.scratch = none) : s.free = s := by
  simp [State.free, h]

/-- With a scratch buffer, releasing it is one event. -/
theorem State.free_of_scratch {s : State} {b : Scratch} (h : s.scratch = some b) :
    s.free = ({ s with scratch := none }).log (.freed s.now) := by
  simp [State.free, h]

/-- A freshly loaded parameter buffer reads back the bytes loaded. -/
@[simp] theorem State.params_loadParams (ps : List Byte) (s : State) : (s.loadParams ps).params = ps := by
  simp [State.params]

/-- The entry depends on the table and the index only. -/
theorem State.entry_congr {s t : State} (hc : t.cfg = s.cfg) (hi : t.idx = s.idx) : t.entry = s.entry := by
  simp [State.entry, hc, hi]

end Sys2Proof.Machine
end

