-- ==== Sys2Proof/Laws/Ops.lean ====
section
/-! SUPPORT. One lemma per shared operation that says everything it can do: Transact's issue and wait steps, the command and
color writes, the table's entries, the address sets. -/

namespace Sys2Proof.Machine

/-- An accepted `Submit`. -/
theorem State.submit_accepted {s : State} (op : Byte) (r : Req) (h : s.submitAns = .accepted) :
    s.submit op r =
      { s with
        inflight := some r
        phase := s.phase.waitPhase
        panel := s.panel.sending s.now
        trace := .submitted r .accepted s.now :: s.trace } := by
  simp [State.submit, h, State.log]

/-- A refused `Submit`. -/
theorem State.submit_refused {s : State} {e : XErr} (op : Byte) (r : Req) (h : s.submitAns = .refused e) :
    s.submit op r = (s.log (.submitted r (.refused e) s.now)).failTransaction op e := by
  simp [State.submit, h]

/-- The issue step: its precondition holds and the request is submitted. -/
theorem transactIssue_next {m op : Byte} {data : List Byte} {l : DataLines} {s t : State} :
    transactIssue m op data l s = .next t ↔
      s.handle ≠ none ∧ s.inflight = none ∧
        t = State.submit op (Req.ofHeader (frameHeader m op) data l) { s with hdr := frameHeader m op } := by
  unfold transactIssue
  by_cases h1 : s.handle = none <;> by_cases h2 : s.inflight = none <;> simp [h1, h2, eq_comm]

/-- The issue step raises no fault. -/
theorem transactIssue_no_fault {m op : Byte} {data : List Byte} {l : DataLines} {s : State} (f : Fault) :
    transactIssue m op data l s ≠ .fault f := by
  unfold transactIssue
  split <;> simp

/-- The command-write path. -/
theorem commandWrite_next {op : Byte} {ps : List Byte} {s t : State} :
    commandWrite op ps s = .next t ↔
      ps.length ≤ maxParams ∧ s.handle ≠ none ∧ s.inflight = none ∧
        t = State.submit op (commandReq s.cfg op ps)
          { s.loadParams ps with hdr := frameHeader s.cfg.markerCmd op } := by
  unfold commandWrite
  by_cases h : maxParams < ps.length
  · simp [h, Nat.not_le.2 h]
  · simp [h, Nat.not_lt.1 h, transactIssue_next, Req.ofHeader_frameHeader, commandReq]

/-- The command-write path raises no fault. -/
theorem commandWrite_no_fault {op : Byte} {ps : List Byte} {s : State} (f : Fault) : commandWrite op ps s ≠ .fault f := by
  unfold commandWrite
  split
  · simp
  · exact transactIssue_no_fault f

/-- The color-write path. -/
theorem pixelWrite_next {op : Byte} {bs : List Byte} {s t : State} :
    pixelWrite op bs s = .next t ↔
      (bs ≠ [] ∧ bs.length % 2 = 0) ∧ s.cfg.opPixwr = op ∧ s.handle ≠ none ∧ s.inflight = none ∧
        t = State.submit op (colorReq s.cfg op bs)
          { s with hdr := frameHeader s.cfg.markerPix op } := by
  unfold pixelWrite
  by_cases h1 : bs = [] ∨ bs.length % 2 ≠ 0
  · simp only [h1, if_true]
    constructor
    · intro h; cases h
    · rintro ⟨⟨ha, hb⟩, -⟩
      rcases h1 with h1 | h1
      · exact absurd h1 ha
      · exact absurd hb h1
  · have h1' : bs ≠ [] ∧ bs.length % 2 = 0 := by
      rw [not_or, not_not] at h1; exact h1
    by_cases h2 : s.cfg.opPixwr = op
    · simp [h1', h2, transactIssue_next, Req.ofHeader_frameHeader, colorReq]
    · simp [h1', h2]

/-- The color-write path raises no fault. -/
theorem pixelWrite_no_fault {op : Byte} {bs : List Byte} {s : State} (f : Fault) : pixelWrite op bs s ≠ .fault f := by
  unfold pixelWrite
  split
  · simp
  · split
    · simp
    · exact transactIssue_no_fault f

/-- A unit operation outside its phase is refused, inside it runs. -/
theorem inPhase_next {p : Phase} {s t : State} {k : State → Result1} :
    inPhase p s k = .next t ↔ s.phase = p ∧ k s = .next t := by
  unfold inPhase
  split <;> simp [*]

/-- A table entry's operation is the command write of the entry's opcode and bytes, whatever its role. -/
theorem exec_entryInstr (i : Nat) (e : CommandEntry) (s : State) :
    exec (s.cfg.entryInstr i e) s = initEntry e.opcode e.parameters s := by
  unfold Config.entryInstr
  repeat' split
  all_goals simp_all [exec, execColmod, execMadctl, execTeon, execInvon, execSlpout, execDispon, execVendor]

/-- What a wait step has before it goes on: the signal consumed, the slot free, the event recorded. -/
def State.received (r : Req) (c : Completion) (s : State) : State :=
  { s with inflight := none, completion := none, trace := .completed r c s.now :: s.trace }

/-- The wait step: it waits, or it consumes the completion of the request in flight and goes on. -/
theorem awaitDone_next {s t : State} {k : Completion → State → Result1} :
    awaitDone s k = .next t ↔
      (s.completion = none ∧ t = s) ∨
        ∃ c r, s.completion = some c ∧ s.inflight = some r ∧ k c (s.received r c) = .next t := by
  unfold awaitDone State.received State.log
  cases h : s.completion with
  | none => simp [eq_comm]
  | some c => cases h2 : s.inflight <;> simp

/-- The wait step stops only where the going on stops, or on a signal with nothing in flight. -/
theorem awaitDone_fault {s : State} {k : Completion → State → Result1} {f : Fault} :
    awaitDone s k = .fault f ↔ ∃ c r, s.completion = some c ∧ s.inflight = some r ∧ k c (s.received r c) = .fault f := by
  unfold awaitDone State.received State.log
  cases h : s.completion with
  | none => simp
  | some c => cases h2 : s.inflight <;> simp

/-- One step: the controller moves, or another agent does. -/
theorem step_next {s t : State} (h : step s = .next t) :
    (∃ ms, control { s with moves := ms } = .next t) ∨
      ∃ m ms, s.moves = m :: ms ∧ environment m { s with moves := ms } = .next t := by
  unfold step at h
  split at h
  · rename_i hm
    exact .inl ⟨[], by rw [← hm]; exact h⟩
  · rename_i ms hm
    exact .inl ⟨ms, h⟩
  · rename_i m ms hb hm
    exact .inr ⟨m, ms, hm, h⟩

/-- One step faults only where the controller does, or where a move does. -/
theorem step_fault {s : State} {f : Fault} (h : step s = .fault f) :
    (∃ ms, control { s with moves := ms } = .fault f) ∨
      ∃ m ms, s.moves = m :: ms ∧ environment m { s with moves := ms } = .fault f := by
  unfold step at h
  split at h
  · rename_i hm
    exact .inl ⟨[], by rw [← hm]; exact h⟩
  · rename_i ms hm
    exact .inl ⟨ms, h⟩
  · rename_i m ms hb hm
    exact .inr ⟨m, ms, hm, h⟩

end Sys2Proof.Machine
end

