-- ==== Sys2Proof/Laws/Control.lean ====
section
/-! SUPPORT. What one step can do, said once: the controller's transitions and the other agents' moves. -/

namespace Sys2Proof.Machine

/-- The state in which a command write of `op` and `ps` is submitted. -/
def State.loaded (op : Byte) (ps : List Byte) (s : State) : State :=
  { s.loadParams ps with hdr := frameHeader s.cfg.markerCmd op }

/-- The state in which a color write under `op` is submitted. -/
def State.headed (op : Byte) (s : State) : State := { s with hdr := frameHeader s.cfg.markerPix op }

/-- The transitions of the controller, one constructor each: from `s` to the state named. -/
inductive Transition (s : State) : State → Prop where
  | stay : Transition s s
  | initRejected (rst : Bool) (idle : s.phase = .idle) :
      Transition s ({ s.accept (.init rst none) with rstCfg := rst }.raise (.invalidArg .nullHandle))
  | initUnpulsed (h : XHandle) (idle : s.phase = .idle) (wf : s.cfg.wf = true) :
      Transition s ({ s.accept (.init false (some h)) with
        rstCfg := false, handle := some h, idx := 0, panel := s.panel.abandon }.goto .iIssue)
  | initPulsed (h : XHandle) (idle : s.phase = .idle) (wf : s.cfg.wf = true) :
      Transition s { s.accept (.init true (some h)) with rstCfg := true, handle := some h, idx := 0 }.startPulse
  | flushRejected (w : Window) (src : Option (List Half)) (c : Cause) (idle : s.phase = .idle)
      (why : flushCause s w src = some c) :
      Transition s ((s.accept (flushOp w src)).raise (.invalidArg c))
  | flushStarted (w : Window) (src : Option (List Half)) (idle : s.phase = .idle) (valid : flushCause s w src = none)
      (fits : 2 * w.npix ≤ s.cfg.maxXferBytes) :
      Transition s ({ s.accept (flushOp w src) with win := w, src := src, pcount := 0 }.goto .fCasetIssue)
  | lineHigh (at_phase : s.phase = .iRstLow) (floor : s.tMark + s.cfg.tRstLow ≤ s.now) :
      Transition s ((s.driveRst .high).markTime.goto .iRstSettle)
  | settled (at_phase : s.phase = .iRstSettle) (floor : s.tMark + s.cfg.tRstSettle ≤ s.now) :
      Transition s (s.goto .iIssue)
  | entrySubmitted (e : CommandEntry) (at_phase : s.phase = .iIssue) (at_idx : s.entry = some e)
      (short : e.parameters.length ≤ maxParams) (attached : s.handle ≠ none) (free : s.inflight = none) :
      Transition s ((s.loaded e.opcode e.parameters).submit e.opcode (entryReq s.cfg e))
  | casetSubmitted (at_phase : s.phase = .fCasetIssue) (side : s.win.x0.toNat < s.win.x1.toNat)
      (attached : s.handle ≠ none) (free : s.inflight = none) :
      Transition s ((s.loaded s.cfg.opCaset (sidePayload s.win.x0 s.win.x1)).submit s.cfg.opCaset (casetReq s.cfg s.win))
  | rasetSubmitted (at_phase : s.phase = .fRasetIssue) (side : s.win.y0.toNat < s.win.y1.toNat)
      (attached : s.handle ≠ none) (free : s.inflight = none) :
      Transition s ((s.loaded s.cfg.opRaset (sidePayload s.win.y0 s.win.y1)).submit s.cfg.opRaset (rasetReq s.cfg s.win))
  | pixelsSubmitted (b : Scratch) (at_phase : s.phase = .fPixIssue) (held : s.scratch = some b)
      (some_bytes : b.payload ≠ []) (even : b.payload.length % 2 = 0)
      (opcode : s.cfg.opPixwr = 0x2C ∨ s.cfg.opPixwr = 0x3C)
      (attached : s.handle ≠ none) (free : s.inflight = none) :
      Transition s ((s.headed s.cfg.opPixwr).submit s.cfg.opPixwr (colorReq s.cfg s.cfg.opPixwr b.payload))
  | entryDone (e : CommandEntry) (r : Req) (at_phase : s.phase = .iWait) (at_idx : s.entry = some e)
      (slot : s.inflight = some r) (signal : s.completion = some .done) (none_left : e.postDelay = 0) :
      Transition s (s.received r .done).nextEntry
  | delayStarted (e : CommandEntry) (r : Req) (at_phase : s.phase = .iWait) (at_idx : s.entry = some e)
      (slot : s.inflight = some r) (signal : s.completion = some .done) (some_left : e.postDelay ≠ 0) :
      Transition s ((s.received r .done).markTime.goto .iDelay)
  | entryFailed (e : CommandEntry) (r : Req) (x : XErr) (at_phase : s.phase = .iWait) (at_idx : s.entry = some e)
      (slot : s.inflight = some r) (signal : s.completion = some (.failed x)) :
      Transition s ((s.received r (.failed x)).initSeqFail e.opcode x)
  | delayOver (e : CommandEntry) (at_phase : s.phase = .iDelay) (at_idx : s.entry = some e)
      (floor : s.tMark + e.postDelay ≤ s.now) :
      Transition s s.nextEntry
  | casetDone (r : Req) (at_phase : s.phase = .fCasetWait) (slot : s.inflight = some r)
      (signal : s.completion = some .done) :
      Transition s ((s.received r .done).goto .fRasetIssue)
  | rasetDone (r : Req) (at_phase : s.phase = .fRasetWait) (slot : s.inflight = some r)
      (signal : s.completion = some .done) :
      Transition s ((s.received r .done).goto .fAlloc)
  | transactionFailed (r : Req) (x : XErr)
      (at_phase : s.phase = .fCasetWait ∨ s.phase = .fRasetWait ∨ s.phase = .fPixWait) (slot : s.inflight = some r)
      (signal : s.completion = some (.failed x)) :
      Transition s ((s.received r (.failed x)).xportFail x)
  | granted (at_phase : s.phase = .fAlloc) (answer : s.allocAns = .ok) :
      Transition s ({ s.log (.allocated (2 * s.win.npix) .ok) with
        scratch := some ⟨2 * s.win.npix, s.allocs, []⟩, allocs := s.allocs + 1, pcount := 0 }.goto .fPerm)
  | denied (at_phase : s.phase = .fAlloc) (answer : s.allocAns = .noMem) :
      Transition s ((s.log (.allocated (2 * s.win.npix) .noMem)).raise .allocFail)
  | corrected (px : List Half) (v : Half) (b : Scratch) (at_phase : s.phase = .fPerm) (source : s.src = some px)
      (pixel : px[s.pcount]? = some v) (held : s.scratch = some b) (more : s.pcount < s.win.npix)
      (room : 2 * s.pcount + 2 ≤ b.size) :
      Transition s { s with
        px := v
        scratch := some (b.write (2 * s.pcount) (pixelBytes s.cfg.pixOrder (perm v)))
        pcount := s.pcount + 1 }
  | allCorrected (at_phase : s.phase = .fPerm) (done : s.win.npix ≤ s.pcount) : Transition s (s.goto .fPixIssue)
  | pixelsDone (r : Req) (at_phase : s.phase = .fPixWait) (slot : s.inflight = some r)
      (signal : s.completion = some .done) :
      Transition s (s.received r .done).returnOk

/-- What INIT can do. -/
theorem execInit_next {s t : State} {rst : Bool} {x : Option XHandle} (h : execInit rst x s = .next t) : Transition s t := by
  unfold execInit at h
  split at h
  · cases h; exact .stay
  · rename_i hp
    have hp : s.phase = .idle := by simpa using hp
    cases x with
    | none => cases h; exact .initRejected rst hp
    | some hd =>
      dsimp only at h
      split at h
      · cases h
      · rename_i hw
        have hw : s.cfg.wf = true := by simpa using hw
        cases rst
        · cases h; exact .initUnpulsed hd hp hw
        · cases h; exact .initPulsed hd hp hw

/-- What FLUSH can do. -/
theorem execFlush_next {s t : State} {x0 y0 x1 y1 : Half} {src : Option (List Half)}
    (h : execFlush x0 y0 x1 y1 src s = .next t) : Transition s t := by
  unfold execFlush at h
  split at h
  · cases h; exact .stay
  · rename_i hp
    have hp : s.phase = .idle := by simpa using hp
    dsimp only at h
    split at h
    · rename_i c hc
      cases h
      exact .flushRejected ⟨x0, y0, x1, y1⟩ src c hp hc
    · rename_i hc
      split at h
      · cases h
      · rename_i hf
        cases h
        exact .flushStarted ⟨x0, y0, x1, y1⟩ src hp hc (Nat.not_lt.1 hf)

/-- What an address set can do. -/
theorem addressSet_next {p : Phase} {op : Byte} {a b : Half} {s t : State} :
    addressSet p op a b s = .next t ↔
      a.toNat < b.toNat ∧ s.phase = p ∧ s.handle ≠ none ∧ s.inflight = none ∧
        t = (s.loaded op (sidePayload a b)).submit op (commandReq s.cfg op (sidePayload a b)) := by
  unfold addressSet
  split
  · simp; omega
  · rw [inPhase_next, commandWrite_next]
    have : (sidePayload a b).length ≤ maxParams := by simp [sidePayload, be16, maxParams]
    simp [this, State.loaded]
    omega

/-- What the controller can do in one step. -/
theorem control_next {s t : State} (h : control s = .next t) : Transition s t := by
  unfold control State.fetch at h
  cases hp : s.phase <;> simp only [hp] at h
  case idle =>
    cases hh : s.hostPort with
    | none => simp only [hh, State.proceed, hp] at h; cases h; exact .stay
    | some p =>
      simp only [hh, decodeHost] at h
      split at h
      · exact execInit_next h
      · exact execFlush_next h
  case iRstLow =>
    simp only [State.proceed, hp, stepRstLow] at h
    split at h
    · rename_i hf; cases h; exact .lineHigh hp (by simpa [State.elapsed] using hf)
    · cases h; exact .stay
  case iRstSettle =>
    simp only [State.proceed, hp, stepRstSettle] at h
    split at h
    · rename_i hf; cases h; exact .settled hp (by simpa [State.elapsed] using hf)
    · cases h; exact .stay
  case iIssue =>
    cases he : s.entry with
    | none => simp [he] at h
    | some e =>
      simp only [he, exec_entryInstr, initEntry, inPhase_next, commandWrite_next] at h
      obtain ⟨-, h1, h2, h3, rfl⟩ := h
      exact .entrySubmitted e hp he h1 h2 h3
  case iWait =>
    simp only [State.proceed, hp, stepInitWait, awaitDone_next] at h
    rcases h with ⟨-, rfl⟩ | ⟨c, r, hc, hr, h⟩
    · exact .stay
    · split at h
      · cases h
      · rename_i e he
        cases c with
        | done =>
          simp only at h
          split at h
          · rename_i hd; cases h; exact .delayStarted e r hp he hr hc hd
          · rename_i hd; cases h; exact .entryDone e r hp he hr hc (by simpa using hd)
        | failed x => cases h; exact .entryFailed e r x hp he hr hc
  case iDelay =>
    simp only [State.proceed, hp, stepInitDelay] at h
    cases he : s.entry with
    | none => simp [he] at h
    | some e =>
      simp only [he] at h
      split at h
      · rename_i hf; cases h; exact .delayOver e hp he (by simpa [State.elapsed] using hf)
      · cases h; exact .stay
  case fCasetIssue =>
    simp only [exec, execCaset, addressSet_next] at h
    obtain ⟨h1, -, h2, h3, rfl⟩ := h
    exact .casetSubmitted hp h1 h2 h3
  case fRasetIssue =>
    simp only [exec, execRaset, addressSet_next] at h
    obtain ⟨h1, -, h2, h3, rfl⟩ := h
    exact .rasetSubmitted hp h1 h2 h3
  case fCasetWait =>
    simp only [State.proceed, hp, stepCasetWait, stepAddressWait, awaitDone_next] at h
    rcases h with ⟨-, rfl⟩ | ⟨c, r, hc, hr, h⟩
    · exact .stay
    · cases c with
      | done => cases h; exact .casetDone r hp hr hc
      | failed x => cases h; exact .transactionFailed r x (.inl hp) hr hc
  case fRasetWait =>
    simp only [State.proceed, hp, stepRasetWait, stepAddressWait, awaitDone_next] at h
    rcases h with ⟨-, rfl⟩ | ⟨c, r, hc, hr, h⟩
    · exact .stay
    · cases c with
      | done => cases h; exact .rasetDone r hp hr hc
      | failed x => cases h; exact .transactionFailed r x (.inr (.inl hp)) hr hc
  case fAlloc =>
    simp only [State.proceed, hp, stepAlloc] at h
    split at h
    · rename_i ha; rw [ha] at h; cases h; exact .granted hp ha
    · rename_i ha; rw [ha] at h; cases h; exact .denied hp ha
  case fPerm =>
    simp only [State.proceed, hp, stepPerm, State.srcRead] at h
    split at h
    · rename_i hd; cases h; exact .allCorrected hp hd
    · rename_i hd
      cases hs : s.src with
      | none => simp [hs] at h
      | some px =>
        cases hv : px[s.pcount]? with
        | none => simp [hs, hv] at h
        | some v =>
          cases hb : s.scratch with
          | none => simp [hs, hv, hb] at h
          | some b =>
            simp only [hs, hv, hb] at h
            split at h
            · cases h
            · rename_i hr
              cases h
              simpa only [hp, hs] using Transition.corrected px v b hp hs hv hb (Nat.lt_of_not_le hd) (Nat.not_lt.1 hr)
  case fPixIssue =>
    cases hb : s.scratch with
    | none => simp [hb] at h
    | some b =>
      simp only [hb] at h
      split at h
      · rename_i ho
        simp only [exec, execRamwrc, inPhase_next, pixelWrite_next] at h
        obtain ⟨-, ⟨h1, h2⟩, -, h3, h4, rfl⟩ := h
        exact ho ▸ .pixelsSubmitted b hp hb h1 h2 (.inr ho) h3 h4
      · simp only [exec, execRamwr, inPhase_next, pixelWrite_next] at h
        obtain ⟨-, ⟨h1, h2⟩, ho, h3, h4, rfl⟩ := h
        exact ho ▸ .pixelsSubmitted b hp hb h1 h2 (.inl ho) h3 h4
  case fPixWait =>
    simp only [State.proceed, hp, stepPixWait, awaitDone_next] at h
    rcases h with ⟨-, rfl⟩ | ⟨c, r, hc, hr, h⟩
    · exact .stay
    · cases c with
      | done => cases h; exact .pixelsDone r hp hr hc
      | failed x => cases h; exact .transactionFailed r x (.inr (.inr hp)) hr hc

/-- The controller faults only on an access that does not exist. -/
theorem control_fault {s : State} {f : Fault} (h : control s = .fault f) :
    (f = .tableIndex ∧ (s.phase = .iIssue ∨ s.phase = .iWait ∨ s.phase = .iDelay) ∧ s.entry = none) ∨
      (f = .srcIndex ∧ s.phase = .fPerm ∧ s.pcount < s.win.npix ∧ s.srcRead s.pcount = none) ∨
      (f = .scratchIndex ∧ (s.phase = .fPerm ∨ s.phase = .fPixIssue) ∧
        (s.scratch = none ∨ ∃ b, s.scratch = some b ∧ s.pcount < s.win.npix ∧ b.size < 2 * s.pcount + 2)) := by
  unfold control State.fetch at h
  cases hp : s.phase <;> simp only [hp] at h
  case idle =>
    cases hh : s.hostPort with
    | none => simp [hh, State.proceed, hp] at h
    | some p =>
      simp only [hh, decodeHost] at h
      split at h
      · simp only [exec, execInit] at h
        repeat' split at h
        all_goals cases h
      · simp only [exec, execFlush] at h
        repeat' split at h
        all_goals cases h
  case iRstLow => simp [State.proceed, hp, stepRstLow] at h
  case iRstSettle => simp [State.proceed, hp, stepRstSettle] at h
  case iIssue =>
    cases he : s.entry with
    | none => simp only [he] at h; cases h; simp
    | some e =>
      simp only [he, exec_entryInstr, initEntry, inPhase] at h
      by_cases hq : s.phase = .iIssue
      · rw [if_pos hq] at h; exact absurd h (commandWrite_no_fault f)
      · rw [if_neg hq] at h; cases h
  case iWait =>
    simp only [State.proceed, hp, stepInitWait, awaitDone_fault] at h
    obtain ⟨c, r, -, -, h⟩ := h
    split at h
    · rename_i he; cases h; exact .inl ⟨rfl, by simp, he⟩
    · cases c <;> cases h
  case iDelay =>
    simp only [State.proceed, hp, stepInitDelay] at h
    split at h
    · rename_i he; cases h; exact .inl ⟨rfl, by simp, he⟩
    · cases h
  case fCasetIssue =>
    simp only [exec, execCaset, addressSet, inPhase] at h
    repeat' split at h
    all_goals first | cases h | exact absurd h (commandWrite_no_fault f)
  case fRasetIssue =>
    simp only [exec, execRaset, addressSet, inPhase] at h
    repeat' split at h
    all_goals first | cases h | exact absurd h (commandWrite_no_fault f)
  case fCasetWait =>
    simp only [State.proceed, hp, stepCasetWait, stepAddressWait, awaitDone_fault] at h
    obtain ⟨c, r, -, -, h⟩ := h
    cases c <;> cases h
  case fRasetWait =>
    simp only [State.proceed, hp, stepRasetWait, stepAddressWait, awaitDone_fault] at h
    obtain ⟨c, r, -, -, h⟩ := h
    cases c <;> cases h
  case fAlloc =>
    simp only [State.proceed, hp, stepAlloc] at h
    split at h <;> cases h
  case fPerm =>
    simp only [State.proceed, hp, stepPerm] at h
    split at h
    · cases h
    · rename_i hd
      have hd := Nat.lt_of_not_le hd
      split at h
      · rename_i hs; cases h; exact .inr (.inl ⟨rfl, rfl, hd, hs⟩)
      · split at h
        · rename_i hb; cases h; exact .inr (.inr ⟨rfl, .inl rfl, .inl hb⟩)
        · rename_i b hb
          split at h
          · rename_i hr; cases h; exact .inr (.inr ⟨rfl, .inl rfl, .inr ⟨b, hb, hd, hr⟩⟩)
          · cases h
  case fPixIssue =>
    cases hb : s.scratch with
    | none => simp only [hb] at h; cases h; simp
    | some b =>
      simp only [hb] at h
      by_cases ho : s.cfg.opPixwr = 0x3C
      · simp only [if_pos ho, exec, execRamwrc, inPhase, if_pos hp] at h
        exact absurd h (pixelWrite_no_fault f)
      · simp only [if_neg ho, exec, execRamwr, inPhase, if_pos hp] at h
        exact absurd h (pixelWrite_no_fault f)
  case fPixWait =>
    simp only [State.proceed, hp, stepPixWait, awaitDone_fault] at h
    obtain ⟨c, r, -, -, h⟩ := h
    cases c <;> cases h

/-- The events a step records are those it puts in front of the trace. -/
theorem records_iff {s t : State} {added : List Event} (h : t.trace = added ++ s.trace) (e : Event) :
    Records s t e ↔ e ∈ added := by
  unfold Records
  constructor
  · rintro ⟨before, after, h2⟩
    have := List.append_cancel_right (h.symm.trans h2)
    simp [this]
  · intro hm
    obtain ⟨after, before, rfl⟩ := List.append_of_mem hm
    exact ⟨before, after, h⟩

/-- A state whose trace is the same records nothing. -/
theorem not_records_same {s t : State} (h : t.trace = s.trace) (e : Event) : ¬ Records s t e := by
  rw [records_iff (added := []) (by simpa using h)]
  simp

/-- No agent but the controller records an event. -/
theorem environment_trace {m : Move} {s t : State} (h : environment m s = .next t) : t.trace = s.trace := by
  cases m <;> simp only [environment] at h <;> repeat' split at h
  all_goals cases h <;> rfl

/-- The runs of the claims are the host's runs of the machine. -/
theorem run_eq_core (n : Nat) (s : State) : run n s = Sys2Proof.core.run n s := by
  induction n generalizing s with
  | zero => rfl
  | succ n ih =>
    have hc : Sys2Proof.core.step s = step s := rfl
    simp only [run, Host.Core.run, hc]
    cases step s with
    | next t => exact ih t
    | fault f => rfl
    | refused r => rfl

/-- No steps. -/
@[simp] theorem run_zero (s : State) : run 0 s = .next s := rfl

/-- One step and then the rest. -/
theorem run_succ {s t : State} (h : step s = .next t) (n : Nat) : run (n + 1) s = run n t := by
  rw [run, h]

/-- Some steps and then the rest. -/
theorem run_add {s t : State} {m : Nat} (h : run m s = .next t) (n : Nat) : run (m + n) s = run n t := by
  induction m generalizing s with
  | zero => cases h; rw [Nat.zero_add]
  | succ m ih =>
    rw [run] at h
    split at h
    · rename_i u hs
      rw [show m + 1 + n = (m + n) + 1 by omega, run_succ hs, ih h]
    · cases h
    · cases h

/-- What `por` leaves of the panel keeps the memories canonical. -/
theorem State.powerOnReset_panel_wf (s : State) (h : s.panel.wf = true) : s.powerOnReset.panel.wf = true := by
  unfold State.powerOnReset
  split
  · exact Panel.wf_lineReleased _ _ h
  · simp

end Sys2Proof.Machine
end

