-- ==== Sys2Proof/Laws/PerInstr.lean ====
section
/-! SUPPORT. Statements about every operation as syntax, one lemma per constructor: family `WireForm`, the form of each
operation's encoding (30_encoding.md R101 to R103, R114). -/

namespace Sys2Proof.Laws.WireForm

/-- The encoding is a frame with the header `[marker, 0x00, opcode, 0x00]` and, for a well-formed operation, a data phase of
its class's length; or it is the host port's lines, which decode to the operation. -/
def Statement (i : Instr) : Prop :=
  ∀ c : Config,
    (∃ op data, encode c i = .frame ([c.markerCmd, 0x00, op, 0x00] ++ data) ∧ (i.wf = true → data.length ≤ maxParams)) ∨
      (∃ op data, encode c i = .frame ([c.markerPix, 0x00, op, 0x00] ++ data) ∧
        (i.wf = true → data ≠ [] ∧ data.length % 2 = 0)) ∨
      (∃ p, encode c i = .host p ∧ decodeHost p = i)

/-- A command frame. -/
theorem of_command {i : Instr} (op : Config → Byte) (data : List Byte)
    (he : ∀ c : Config, encode c i = .frame (frameBytes c.markerCmd (op c) data))
    (hl : i.wf = true → data.length ≤ maxParams) : Statement i :=
  fun c => .inl ⟨op c, data, he c, hl⟩

/-- A pixel frame. -/
theorem of_pixels {i : Instr} (op : Byte) (data : List Byte)
    (he : ∀ c : Config, encode c i = .frame (frameBytes c.markerPix op data))
    (hl : i.wf = true → data ≠ [] ∧ data.length % 2 = 0) : Statement i :=
  fun c => .inr (.inl ⟨op, data, he c, hl⟩)

theorem cmdwr (op : Byte) (ps : List Byte) : Statement (.cmdwr op ps) :=
  of_command (fun _ => op) ps (fun _ => rfl) (fun h => of_decide_eq_true h)

theorem caset (x0 x1 : Half) : Statement (.caset x0 x1) :=
  of_command Config.opCaset (sidePayload x0 x1) (fun _ => rfl) (fun _ => Nat.le_of_ble_eq_true rfl)

theorem raset (y0 y1 : Half) : Statement (.raset y0 y1) :=
  of_command Config.opRaset (sidePayload y0 y1) (fun _ => rfl) (fun _ => Nat.le_of_ble_eq_true rfl)

theorem ramwr (bs : List Byte) : Statement (.ramwr bs) := of_pixels 0x2C bs (fun _ => rfl) (fun h => of_decide_eq_true h)

theorem ramwrc (bs : List Byte) : Statement (.ramwrc bs) := of_pixels 0x3C bs (fun _ => rfl) (fun h => of_decide_eq_true h)

theorem colmod (ps : List Byte) : Statement (.colmod ps) := of_command Config.opColmod ps (fun _ => rfl) (fun h => of_decide_eq_true h)

theorem madctl (ps : List Byte) : Statement (.madctl ps) := of_command Config.opMadctl ps (fun _ => rfl) (fun h => of_decide_eq_true h)

theorem teon (ps : List Byte) : Statement (.teon ps) := of_command Config.opTeon ps (fun _ => rfl) (fun h => of_decide_eq_true h)

theorem invon (ps : List Byte) : Statement (.invon ps) := of_command Config.opInvon ps (fun _ => rfl) (fun h => of_decide_eq_true h)

theorem slpout (ps : List Byte) : Statement (.slpout ps) := of_command Config.opSlpout ps (fun _ => rfl) (fun h => of_decide_eq_true h)

theorem dispon (ps : List Byte) : Statement (.dispon ps) := of_command Config.opDispon ps (fun _ => rfl) (fun h => of_decide_eq_true h)

theorem vendor (op : Byte) (ps : List Byte) : Statement (.vendor op ps) :=
  of_command (fun _ => op) ps (fun _ => rfl) (fun h => of_decide_eq_true h)

theorem init (rst : Bool) (x : Option XHandle) : Statement (.init rst x) :=
  fun _ => .inr (.inr ⟨encodeInit rst x, rfl, rfl⟩)

theorem flush (x0 y0 x1 y1 : Half) (src : Option (List Half)) : Statement (.flush x0 y0 x1 y1 src) :=
  fun _ => .inr (.inr ⟨encodeFlush x0 y0 x1 y1 src, rfl, rfl⟩)

end Sys2Proof.Laws.WireForm
end

