-- ==== Sys2Proof/Machine/Text.lean ====
section
/-! DEFINITION. The text notation of 30_encoding.md R125 for table entries, frames, host operations and reset-line events,
and the expansion of its pseudo-operations. No part of the machine reads it. -/

namespace Sys2Proof.Machine

/-- One hexadecimal digit, capital. -/
def hexDigit (n : Nat) : Char := if n < 10 then Char.ofNat (48 + n) else Char.ofNat (55 + n)

/-- A byte as two hexadecimal digits. -/
def hexByte (b : Byte) : String := String.ofList [hexDigit (b.toNat / 16), hexDigit (b.toNat % 16)]

/-- A byte as `0xNN`. -/
def textByte (b : Byte) : String := "0x" ++ hexByte b

/-- A pixel as `0xNNNN`. -/
def textHalf (h : Half) : String := "0x" ++ hexByte (hi8 h) ++ hexByte (lo8 h)

/-- `[b0, b1, ...]`. -/
def textList (l : List String) : String := "[" ++ ", ".intercalate l ++ "]"

/-- `ENTRY op=0xNN params=[0x.., ...] delay=D` (30_encoding.md R125). -/
def entryText (e : CommandEntry) : String :=
  "ENTRY op=" ++ textByte e.opcode ++ " params=" ++ textList (e.parameters.map textByte) ++ " delay=" ++ toString e.postDelay

/-- `C(0xNN)[b0, b1, ...]` or `P(0xNN)[b0, b1, ...]` (30_encoding.md R125). -/
def Req.text (r : Req) : String :=
  (match r.dataLines with | .single => "C(" | .quad => "P(") ++ textByte (addrOpcode r.addr) ++ ")" ++
    textList (r.data.map textByte)

/-- `<marker 00 NN 00 | b0 b1 ...>`, with `*4` on a four-line data phase (30_encoding.md R125). -/
def Req.rawText (r : Req) : String :=
  "<" ++ " ".intercalate ((r.frame.take 4).map hexByte) ++ " | " ++ " ".intercalate (r.data.map hexByte) ++
    (match r.dataLines with | .single => ">" | .quad => " *4>")

/-- `INIT rst=<0|1> xport=<h|null>` (30_encoding.md R125). -/
def textInit (rstCfg : Bool) (xport : Option XHandle) : String :=
  "INIT rst=" ++ (if rstCfg then "1" else "0") ++ " xport=" ++ (if xport.isSome then "h" else "null")

/-- `FLUSH (x0,y0,x1,y1) [p0, p1, ...]` (30_encoding.md R125). -/
def textFlush (w : Window) (pixels : List Half) : String :=
  "FLUSH (" ++ ",".intercalate ([w.x0, w.y0, w.x1, w.y1].map (fun h => toString h.toNat)) ++ ") " ++
    textList (pixels.map textHalf)

/-- `RST=0` or `RST=1` (30_encoding.md R125). -/
def Level.text : Level → String
  | .low => "RST=0"
  | .high => "RST=1"

/-- `WAIT>=D` (30_encoding.md R125). -/
def textWait (d : Nat) : String := "WAIT>=" ++ toString d

/-- `RSTPULSE` = `RST=0; WAIT>=T_RST_LOW_MS; RST=1; WAIT>=T_RST_SETTLE_MS` (30_encoding.md R125). -/
def rstPulseText (c : Config) : List String :=
  [Level.low.text, textWait c.tRstLow, Level.high.text, textWait c.tRstSettle]

/-- `FLUSH w px` = `SETWIN w; P(OP_PIXWR)[payload(px)]` (30_encoding.md R125). -/
def flushInstrs (c : Config) (w : Window) (pixels : List Half) : List Instr :=
  setwinInstrs w ++
    [if c.opPixwr = 0x3C then .ramwrc (pixelPayload c.pixOrder pixels) else .ramwr (pixelPayload c.pixOrder pixels)]

end Sys2Proof.Machine
end

