-- ==== Sys2Proof/Tests/Slice0.lean ====
section
/-! SUPPORT. The model's own tests. Expected values are from 95_test_vectors.md (S, V, P) and the examples of the rules, or
computed by hand from a rule where noted. Then one witness for the hypotheses of each obligation that has any. -/

namespace Sys2Proof.Tests

open Sys2Proof Sys2Proof.Machine

/-! ## Helpers -/

/-- The table EX8 of 95_test_vectors.md P. -/
def ex8 : List CommandEntry :=
  [⟨0xF0, [0x28], 5⟩, ⟨0xB0, (List.range 36).map (BitVec.ofNat 8), 0⟩, ⟨0x3A, [0x55], 0⟩, ⟨0x36, [0x00], 0⟩] ++
  [⟨0x35, [0x00], 0⟩, ⟨0x21, [], 0⟩, ⟨0x11, [], 120⟩, ⟨0x29, [], 0⟩]

/-- The default parameters with EX8 and a transport of 1000 bytes. -/
def cfg8 : Config := { Config.withTable ex8 with maxXferBytes := 1000 }

/-- `IDLE` after an INIT, with that configuration. -/
def ready : State := { State.reset with cfg := cfg8, handle := some ⟨7⟩ }

/-- That state in another phase. -/
def at_ (p : Phase) (idx : Nat) : State := { ready with phase := p, idx := idx }

/-- The outcome is a next state with property `p`. -/
def okWith (o : Result1) (p : State → Bool) : Bool :=
  match o with
  | .next t => p t
  | .fault _ => false
  | .refused _ => false

/-- The outcome is that refusal. -/
def refusedWith (o : Result1) (r : Refusal) : Bool :=
  match o with
  | .next _ => false
  | .fault _ => false
  | .refused q => decide (q = r)

/-- The operation puts these bytes in flight, on these lines, and goes to this phase. -/
def sends (o : Result1) (bytes : List Byte) (l : DataLines) (p : Phase) : Bool :=
  okWith o fun t => decide (t.inflight.map Req.frame = some bytes ∧ t.inflight.map Req.dataLines = some l ∧ t.phase = p)

/-- The decoder's error, if it rejects. -/
def errorOf (e : Except DecodeError Instr) : Option DecodeError :=
  match e with
  | .ok _ => none
  | .error x => some x

/-! ## Well-formedness: an ill-formed term for each check, refused -/

theorem test_wf_cmdwr_37 : (Instr.cmdwr 0xB0 (List.replicate 37 0)).wf = false := by decide
theorem test_wf_cmdwr_36 : (Instr.cmdwr 0xB0 (List.replicate 36 0)).wf = true := by decide
theorem test_wf_caset_empty : (Instr.caset 5 5).wf = false := by decide
theorem test_wf_raset_reversed : (Instr.raset 9 5).wf = false := by decide
theorem test_wf_ramwr_empty : (Instr.ramwr []).wf = false := by decide
theorem test_wf_ramwrc_odd : (Instr.ramwrc [0x07, 0xC0, 0x00]).wf = false := by decide
theorem test_wf_entries_37 :
    (Instr.colmod (List.replicate 37 0)).wf = false ∧ (Instr.madctl (List.replicate 37 0)).wf = false ∧
    (Instr.teon (List.replicate 37 0)).wf = false ∧ (Instr.invon (List.replicate 37 0)).wf = false ∧
    (Instr.slpout (List.replicate 37 0)).wf = false ∧ (Instr.dispon (List.replicate 37 0)).wf = false ∧
    (Instr.vendor 0xF0 (List.replicate 37 0)).wf = false := by decide
theorem test_config_wf : cfg8.wf = true := by decide
theorem test_config_markers : { cfg8 with markerPix := 0x02 }.wf = false := by decide
theorem test_config_pixel_opcode : { cfg8 with opPixwr := 0x2A }.wf = false := by decide
theorem test_config_reset_low : { cfg8 with tRstLow := 9 }.wf = false := by decide
theorem test_config_reset_settle : { cfg8 with tRstSettle := 119 }.wf = false := by decide
theorem test_config_sleep_floor : { cfg8 with tSlpout := 119 }.wf = false := by decide
theorem test_config_panel_zero : { cfg8 with panelW := 0 }.wf = false := by decide
theorem test_config_panel_high : { cfg8 with panelH := 65536 }.wf = false := by decide
theorem test_config_w1 : { cfg8 with initTable := ⟨0xF0, List.replicate 37 0, 0⟩ :: ex8 }.wf = false := by decide
theorem test_config_w2_order : { cfg8 with initTable := ex8.reverse }.wf = false := by decide
theorem test_config_w2_short : { cfg8 with initTable := ex8.drop 3 }.wf = false := by decide
theorem test_config_w3 :
    { cfg8 with initTable := ex8.take 6 ++ [CommandEntry.mk 0x11 [] 119, CommandEntry.mk 0x29 [] 0] }.wf = false := by decide
theorem test_config_ops_distinct : cfg8.opsDistinct = true ∧ { cfg8 with opRaset := 0x2A }.opsDistinct = false := by decide
theorem test_window_valid : (Window.mk 0 0 360 10).valid cfg8 = true ∧ (Window.mk 359 0 360 1).valid cfg8 = true ∧
    (Window.mk 0 0 361 10).valid cfg8 = false ∧ (Window.mk 5 5 5 9).valid cfg8 = false := by decide

/-! ## Decoding: headers written out bit by bit (V3) -/

theorem test_decode_caset : (decode cfg8 (.frame [0b00000010, 0b00000000, 0b00101010, 0b00000000, 0x00, 0x0A, 0x00, 0x6D])).toOption =
    some (.caset 10 110) := by decide
theorem test_decode_raset : (decode cfg8 (.frame [0b00000010, 0b00000000, 0b00101011, 0b00000000, 0x00, 0x14, 0x00, 0x45])).toOption =
    some (.raset 20 70) := by decide
theorem test_decode_ramwr : (decode cfg8 (.frame [0b00110010, 0b00000000, 0b00101100, 0b00000000, 0x07, 0xC0])).toOption =
    some (.ramwr [0x07, 0xC0]) := by decide
theorem test_decode_ramwrc : (decode { cfg8 with opPixwr := 0x3C } (.frame [0b00110010, 0b00000000, 0b00111100, 0b00000000, 0x07, 0xC0])).toOption =
    some (.ramwrc [0x07, 0xC0]) := by decide
theorem test_decode_colmod : (decode cfg8 (.frame [0b00000010, 0b00000000, 0b00111010, 0b00000000, 0x55])).toOption =
    some (.colmod [0x55]) := by decide
theorem test_decode_madctl : (decode cfg8 (.frame [0b00000010, 0b00000000, 0b00110110, 0b00000000, 0x00])).toOption =
    some (.madctl [0x00]) := by decide
theorem test_decode_teon : (decode cfg8 (.frame [0b00000010, 0b00000000, 0b00110101, 0b00000000, 0x00])).toOption =
    some (.teon [0x00]) := by decide
theorem test_decode_invon : (decode cfg8 (.frame [0b00000010, 0b00000000, 0b00100001, 0b00000000])).toOption =
    some (.invon []) := by decide
theorem test_decode_slpout : (decode cfg8 (.frame [0b00000010, 0b00000000, 0b00010001, 0b00000000])).toOption =
    some (.slpout []) := by decide
theorem test_decode_dispon : (decode cfg8 (.frame [0b00000010, 0b00000000, 0b00101001, 0b00000000])).toOption =
    some (.dispon []) := by decide
/-- CMDWR's words decode to the VENDOR operation with the same bytes (log entry 11). -/
theorem test_decode_vendor : (decode cfg8 (.frame [0b00000010, 0b00000000, 0b11110000, 0b00000000, 0x28])).toOption =
    some (.vendor 0xF0 [0x28]) ∧ encode cfg8 (.cmdwr 0xF0 [0x28]) = .frame [0x02, 0x00, 0xF0, 0x00, 0x28] := by decide
theorem test_decode_host : decodeHost (HostPort.ofSelect 0b0) = .init false none ∧
    decodeHost (HostPort.ofSelect 0b1) = .flush 0 0 0 0 none := by decide

theorem test_reject_short : errorOf (decodeFrame cfg8 [0x02, 0x00, 0x2A]) = some .shortHeader := by decide
theorem test_reject_marker : errorOf (decodeFrame cfg8 [0x03, 0x00, 0x21, 0x00]) = some .unknownMarker := by decide
theorem test_reject_address : errorOf (decodeFrame cfg8 [0x02, 0x01, 0x21, 0x00]) = some .addressBits ∧
    errorOf (decodeFrame cfg8 [0x02, 0x00, 0x21, 0x80]) = some .addressBits := by decide
theorem test_reject_params : errorOf (decodeFrame cfg8 ([0x02, 0x00, 0xB0, 0x00] ++ List.replicate 37 0)) =
    some .tooManyParams := by decide
theorem test_reject_side_length : errorOf (decodeFrame cfg8 [0x02, 0x00, 0x2A, 0x00, 0x00]) = some .addressSetLength := by decide
theorem test_reject_side_order : errorOf (decodeFrame cfg8 [0x02, 0x00, 0x2A, 0x00, 0x00, 0x02, 0x00, 0x01]) =
    some .endBeforeStart := by decide
theorem test_reject_side_end : errorOf (decodeFrame cfg8 [0x02, 0x00, 0x2B, 0x00, 0x00, 0x02, 0xFF, 0xFF]) =
    some .endOutOfRange := by decide
theorem test_reject_pixel_opcode : errorOf (decodeFrame cfg8 [0x32, 0x00, 0x2A, 0x00, 0x07, 0xC0]) = some .pixelOpcode ∧
    errorOf (decodeFrame cfg8 [0x32, 0x00, 0x3C, 0x00, 0x07, 0xC0]) = some .pixelOpcode ∧
    errorOf (decodeFrame { cfg8 with opPixwr := 0x3C } [0x32, 0x00, 0x2C, 0x00, 0x07, 0xC0]) = some .pixelOpcode := by decide
theorem test_reject_pixel_length : errorOf (decodeFrame cfg8 [0x32, 0x00, 0x2C, 0x00, 0x07]) = some .pixelLength ∧
    errorOf (decodeFrame cfg8 [0x32, 0x00, 0x2C, 0x00]) = some .pixelLength := by decide

/-- Table words, as the host lays them out. -/
theorem test_table_words : decodeTableWord 32 0x02003A00 = some (.colmod []) ∧
    decodeTableWord 32 0x32002C00 = some (.ramwr [0x00, 0x00]) ∧ decodeTableWord 8 1 = some (.flush 0 0 0 0 none) ∧
    decodeTableWord 32 0x05002C00 = none := by decide

/-! ## Bytes, colours and lines -/

/-- V2, the address-set payloads. -/
theorem test_side_payload : sidePayload 0 360 = [0x00, 0x00, 0x01, 0x67] ∧ sidePayload 256 257 = [0x01, 0x00, 0x01, 0x00] ∧
    sidePayload 0 65535 = [0x00, 0x00, 0xFF, 0xFE] ∧ (Window.mk 0 0 65535 65535).npix = 4294836225 := by decide

/-- V1, a part of the table of T. -/
theorem test_perm : [0x0000, 0xFFFF, 0xF800, 0x07E0, 0x001F, 0x0020, 0x1234, 0xABCD, 0x5AA5].map perm =
    [0x0000, 0xFFDF, 0x07C0, 0x001F, 0xF800, 0x0000, 0xA088, 0x6D4F, 0x2ACA] := by decide

/-- V5, the pixel payloads. -/
theorem test_pixel_payload : pixelPayload .hiFirst [0xF800, 0x07E0, 0x001F, 0xFFFF] = [0x07, 0xC0, 0x00, 0x1F, 0xF8, 0x00, 0xFF, 0xDF] ∧
    pixelPayload .loFirst [0xF800, 0x07E0, 0x001F, 0xFFFF] = [0xC0, 0x07, 0x1F, 0x00, 0x00, 0xF8, 0xDF, 0xFF] := by decide

/-- V6, the clocks of two frames. -/
theorem test_clocks : (colorReq cfg8 0x2C [0x07, 0xC0]).clocks.length = 36 ∧
    (colorReq cfg8 0x2C [0x07, 0xC0]).clocks.drop 32 = [.io3to0 0b0000, .io3to0 0b0111, .io3to0 0b1100, .io3to0 0b0000] ∧
    (commandReq cfg8 0x2A [0x00, 0x0A, 0x00, 0x6D]).clocks.length = 64 := by decide

/-- R125, the text notation. -/
theorem test_text : (colorReq cfg8 0x2C [0x07, 0xC0]).rawText = "<32 00 2C 00 | 07 C0 *4>" := by decide

theorem test_text_entry : entryText ⟨0xF0, [0x28], 5⟩ = "ENTRY op=0xF0 params=[0x28] delay=5" := by decide

/-! ## Each operation -/

theorem test_cmdwr : sends (exec (.cmdwr 0x3A [0x55]) (at_ .iIssue 2)) [0x02, 0x00, 0x3A, 0x00, 0x55] .single .iWait = true := by
  decide
theorem test_cmdwr_37 : refusedWith (exec (.cmdwr 0xB0 (List.replicate 37 0)) (at_ .iIssue 1)) .paramsTooLong = true := by decide
theorem test_caset : sends (exec (.caset 10 110) (at_ .fCasetIssue 0)) [0x02, 0x00, 0x2A, 0x00, 0x00, 0x0A, 0x00, 0x6D] .single
    .fCasetWait = true := by decide
theorem test_caset_empty : refusedWith (exec (.caset 5 5) (at_ .fCasetIssue 0)) .emptySide = true := by decide
theorem test_raset : sends (exec (.raset 20 70) (at_ .fRasetIssue 0)) [0x02, 0x00, 0x2B, 0x00, 0x00, 0x14, 0x00, 0x45] .single
    .fRasetWait = true := by decide
theorem test_raset_refused : okWith (exec (.raset 20 70) { at_ .fRasetIssue 0 with submitAns := .refused ⟨9⟩ })
    (fun t => decide (t.result = .xportFail ⟨9⟩ ∧ t.phase = .idle ∧ t.result.code = 3)) = true := by decide
theorem test_ramwr : sends (exec (.ramwr [0x07, 0xC0]) (at_ .fPixIssue 0)) [0x32, 0x00, 0x2C, 0x00, 0x07, 0xC0] .quad
    .fPixWait = true := by decide
theorem test_ramwr_other_opcode : refusedWith
    (exec (.ramwr [0x07, 0xC0]) { at_ .fPixIssue 0 with cfg := { cfg8 with opPixwr := 0x3C } }) .pixelOpcodeNotConfigured = true := by
  decide
theorem test_ramwrc : sends (exec (.ramwrc [0x07, 0xC0]) { at_ .fPixIssue 0 with cfg := { cfg8 with opPixwr := 0x3C } })
    [0x32, 0x00, 0x3C, 0x00, 0x07, 0xC0] .quad .fPixWait = true := by decide
theorem test_ramwrc_odd : refusedWith (exec (.ramwrc [0x07]) (at_ .fPixIssue 0)) .badPayload = true := by decide
theorem test_colmod : sends (exec (.colmod [0x55]) (at_ .iIssue 2)) [0x02, 0x00, 0x3A, 0x00, 0x55] .single .iWait = true := by decide
theorem test_madctl : sends (exec (.madctl [0x00]) (at_ .iIssue 3)) [0x02, 0x00, 0x36, 0x00, 0x00] .single .iWait = true := by decide
/-- P2's variant: refused at submit. -/
theorem test_madctl_refused : okWith (exec (.madctl [0x00]) { at_ .iIssue 3 with submitAns := .refused ⟨7⟩ })
    (fun t => decide (t.result = .initSeqFail 3 0x36 ⟨7⟩ ∧ t.initStatus = .failed ∧ t.idx = 3 ∧ t.phase = .idle)) = true := by
  decide
theorem test_teon : sends (exec (.teon [0x00]) (at_ .iIssue 4)) [0x02, 0x00, 0x35, 0x00, 0x00] .single .iWait = true := by decide
theorem test_invon : sends (exec (.invon []) (at_ .iIssue 5)) [0x02, 0x00, 0x21, 0x00] .single .iWait = true := by decide
theorem test_slpout : sends (exec (.slpout []) (at_ .iIssue 6)) [0x02, 0x00, 0x11, 0x00] .single .iWait = true := by decide
theorem test_dispon : sends (exec (.dispon []) (at_ .iIssue 7)) [0x02, 0x00, 0x29, 0x00] .single .iWait = true := by decide
/-- V4: the longest command write is a 40-byte frame. -/
theorem test_vendor : okWith (exec (.vendor 0xB0 ((List.range 36).map (BitVec.ofNat 8))) (at_ .iIssue 1))
    (fun t => decide (t.inflight.map (fun r => r.frame.length) = some 40 ∧ t.plen = 36)) = true := by decide
theorem test_vendor_elsewhere : refusedWith (exec (.vendor 0xF0 []) (at_ .idle 0)) .notInvocable = true := by decide
/-- V7's first row. -/
theorem test_init_null : okWith (exec (.init true none) ready) (fun t => decide (t.result = .invalidArg .nullHandle ∧
    t.result.code = 1 ∧ t.rstN = .high ∧ t.handle = some ⟨7⟩ ∧ t.valid = true ∧ t.trace.length = 2)) = true := by decide
theorem test_init_pulse : okWith (exec (.init true (some ⟨9⟩)) { ready with now := 40 }) (fun t => decide (t.rstN = .low ∧
    t.tMark = 40 ∧ t.phase = .iRstLow ∧ t.handle = some ⟨9⟩ ∧ t.busy = true)) = true := by decide
theorem test_flush_start : okWith (exec (.flush 10 20 12 22 (some [0xF800, 0x07E0, 0x001F, 0xFFFF])) ready)
    (fun t => decide (t.phase = .fCasetIssue ∧ t.win = ⟨10, 20, 12, 22⟩ ∧ t.valid = false)) = true := by decide
/-- V7: the order of the causes. -/
theorem test_flush_causes :
    okWith (exec (.flush 0 0 0 5 (some [0, 0, 0])) { ready with handle := none })
      (fun t => decide (t.result = .invalidArg .nullHandle)) = true ∧
    okWith (exec (.flush 361 0 360 1 (some [])) ready) (fun t => decide (t.result = .invalidArg .zeroArea)) = true ∧
    okWith (exec (.flush 360 0 361 1 (some [])) ready) (fun t => decide (t.result = .invalidArg .outOfPanel)) = true ∧
    okWith (exec (.flush 0 0 2 2 (some [0, 0, 0])) ready) (fun t => decide (t.result = .invalidArg .lenMismatch)) = true := by
  decide

/-! ## The controller's steps -/

/-- R162: one millisecond early the line stays low. -/
theorem test_reset_low_floor :
    okWith (step { at_ .iRstLow 0 with tMark := 5, now := 14, rstN := .low }) (fun t => decide (t.rstN = .low)) = true ∧
    okWith (step { at_ .iRstLow 0 with tMark := 5, now := 15, rstN := .low })
      (fun t => decide (t.rstN = .high ∧ t.tMark = 15 ∧ t.phase = .iRstSettle)) = true := by decide

/-- R164: the post-delay of entry 6 (SLPOUT) is 120 ms. -/
theorem test_sleep_delay :
    okWith (step { at_ .iDelay 6 with tMark := 5, now := 124 }) (fun t => decide (t.phase = .iDelay)) = true ∧
    okWith (step { at_ .iDelay 6 with tMark := 5, now := 125 }) (fun t => decide (t.phase = .iIssue ∧ t.idx = 7)) = true := by
  decide

/-- R210's example: the fourth pixel of `[0xF800, 0x07E0, 0x001F, 0xFFFF]`. -/
theorem test_permbuf : okWith (step { at_ .fPerm 0 with
      win := ⟨10, 20, 12, 22⟩, src := some [0xF800, 0x07E0, 0x001F, 0xFFFF], pcount := 3, scratch := some ⟨8, 0, []⟩ })
    (fun t => decide (t.px = 0xFFFF ∧ t.pcount = 4 ∧ t.scratch.map Scratch.bytes = some [(6, 0xFF), (7, 0xDF)])) = true := by
  decide

/-- P7: the hang. -/
theorem test_hang : okWith (step (at_ .fCasetWait 0)) (fun t => decide (t.phase = .fCasetWait ∧ t.busy = true)) = true := by
  decide

/-- R43: a second request while one waits at the port. -/
theorem test_port_taken : refusedWith (step { ready with
    hostPort := some (HostPort.ofSelect 0), moves := [.host (HostPort.ofSelect 1)] }) .hostPortTaken = true := by decide

/-- U8: a completion with nothing in flight. -/
theorem test_spurious : refusedWith (step { ready with moves := [.complete .done] }) .spuriousCompletion = true := by decide

/-- P3's panel view: the four sent words. -/
theorem test_panel : (placePixels cfg8 ⟨10, 20, 12, 22⟩ 0 [0x07C0, 0x001F, 0xF800, 0xFFDF] []) =
    [(7210, 0x07C0), (7211, 0x001F), (7570, 0xF800), (7571, 0xFFDF)] := by decide

/-- R87: a sleep-exit frame sent early (at 100, within the floor of the one at 0) starts a floor of its own; so does one whose
opcode an address set shares, and one that fails. -/
theorem test_sleep_floor :
    let p : Panel := { Panel.unknown with lost := false, notBefore := 120, sentAt := 100 }
    (p.receive cfg8 (commandReq cfg8 0x11 []) 100).notBefore = 220 ∧
      (p.receive { cfg8 with opCaset := 0x11 } (commandReq cfg8 0x11 []) 100).notBefore = 220 ∧
      (p.disturbed cfg8 (commandReq cfg8 0x11 []) 100).notBefore = 220 ∧
      (p.receive cfg8 (commandReq cfg8 0x29 []) 100).notBefore = 120 := by decide

/-- `por` with a frame in flight: the observer gives the panel up (log entry 18). -/
theorem test_por_in_flight : okWith (step { at_ .fPixWait 0 with panel := { Panel.unknown with lost := false }, moves := [.por] })
    (fun t => t.panel.lost) = true := by decide

/-- A table word of RAMWRC decodes under the `OP_PIXWR` it stands for. -/
theorem test_table_word_ramwrc : decodeTableWord 32 0x32003C00 = some (.ramwrc [0, 0]) := by decide

/-- A table word run as the first operation after reset. -/
theorem test_with_fetch_word : okWith (step (State.reset.withFetchWord 32 0x02002900))
    (fun t => decide (t.phase = .iWait ∧ t.inflight.map Req.frame = some [0x02, 0x00, 0x29, 0x00])) = true := by decide

/-! ## Witnesses: a state and operands that meet the hypotheses of each obligation -/

theorem witness_DecodeOfEncode : cfg8.wf = true ∧ cfg8.opsDistinct = true ∧ (Instr.caset 65534 65535).wf = true ∧
    (Instr.raset 0 1).wf = true ∧ (Instr.ramwr [1, 2]).wf = true ∧ cfg8.opPixwr = 0x2C ∧
    { cfg8 with opPixwr := 0x3C }.wf = true ∧ (Instr.dispon (List.replicate 36 0)).wf = true ∧
    (0xF0 : Byte) ∉ cfg8.namedOps ∧ (0x3A : Byte) ∈ cfg8.namedOps ∧ (0x3A : Byte) ≠ cfg8.opCaset ∧
    (0x3A : Byte) ≠ cfg8.opRaset ∧ ([] : List Byte).length ≠ 4 ∧ (0x2A : Byte) = cfg8.opCaset ∧
    ((0xFF : Byte) ++ (0xFF : Byte) : Half).toNat = 65535 ∧
    ((0x00 : Byte) ++ (0x00 : Byte) : Half).toNat < ((0x00 : Byte) ++ (0x01 : Byte) : Half).toNat ∧
    ((0xFF : Byte) ++ (0xFE : Byte) : Half).toNat ≠ 65535 := by decide

theorem witness_EncodeOfDecode : decodeFrame cfg8 [0x02, 0x00, 0x2A, 0x00, 0x00, 0x00, 0xFF, 0xFE] = .ok (.caset 0 65535) := by
  rfl

theorem witness_DecoderRejectsWhatIsNeverSent : cfg8.wf = true ∧
    decodeFrame cfg8 [0x32, 0x00, 0x2C, 0x00, 0x07, 0xC0] = .ok (.ramwr [0x07, 0xC0]) ∧
    (0x03 : Byte) ≠ cfg8.markerCmd ∧ (0x03 : Byte) ≠ cfg8.markerPix ∧ 36 < (List.replicate 37 (0 : Byte)).length ∧
    (0x2B : Byte) = cfg8.opRaset ∧ ([1, 2, 3, 4, 5] : List Byte).length ≠ 4 ∧ (0x3C : Byte) ≠ cfg8.opPixwr ∧
    ([0x07] : List Byte).length % 2 = 1 ∧ ([0x02, 0x00, 0x2A] : List Byte).length < 4 :=
  ⟨by decide, rfl, by decide, by decide, by decide, by decide, by decide, by decide, by decide, by decide⟩

theorem witness_SentFrameIsEncoding : ∃ t r, exec (.caset 10 110) (at_ .fCasetIssue 0) = .next t ∧
    (at_ .fCasetIssue 0).inflight = none ∧ t.inflight = some r := ⟨_, _, rfl, rfl, rfl⟩

theorem witness_AddressSetPayload : (65534 : Half).toNat < (65535 : Half).toNat ∧ (0 : Half).toNat < (1 : Half).toNat := by
  decide

theorem witness_PixelPayloadBytes : ([0x1234, 0xABCD] : List Half)[1]? = some 0xABCD := rfl

theorem witness_ClockCounts : (colorReq cfg8 0x2C [0x07, 0xC0]).data[1]? = some 0xC0 ∧
    (colorReq cfg8 0x2C [0x07, 0xC0]).dataLines = .quad ∧ (commandReq cfg8 0x3A [0x55]).data[0]? = some 0x55 ∧
    (commandReq cfg8 0x3A [0x55]).dataLines = .single := ⟨rfl, rfl, rfl, rfl⟩

theorem witness_PermThreeFold : (0x0020 : Half).getLsbD 5 = true ∧ (0xFFDF : Half).getLsbD 5 = false := by decide

theorem witness_PermImageAndFixedPoints : (0x8410 : Half).getLsbD 5 = false ∧ blue 0x8430 = red 0x8430 ∧
    (green 0x8430).toNat = 2 * (red 0x8430).toNat + 1 := by decide

theorem witness_PowerOnReset : { at_ .fPixWait 0 with moves := [.por] }.moves = .por :: [] ∧ (at_ .fPixWait 0).phase ≠ .idle :=
  ⟨rfl, by decide⟩

/-- FLUSH waiting for its column address set, which has failed: a state that meets the invariant. -/
def failingCaset : State :=
  { at_ .fCasetWait 0 with
    win := ⟨0, 0, 1, 1⟩
    src := some [0x001F]
    inflight := some (casetReq cfg8 ⟨0, 0, 1, 1⟩)
    completion := some (.failed ⟨5⟩)
    trace := [.submitted (casetReq cfg8 ⟨0, 0, 1, 1⟩) .accepted 0, .accepted (flushOp ⟨0, 0, 1, 1⟩ (some [0x001F])) 0] }

theorem inv_failingCaset : failingCaset.Inv :=
  ⟨fun _ => by decide, fun _ => by decide, by decide, fun _ => by decide, by decide, by decide, by decide, by decide, by decide,
    ⟨[0x001F], 0, _, rfl, rfl, rfl, .begun 0 [] (by decide)⟩⟩

theorem witness_ReturnedStateIsClean : failingCaset.Inv ∧ ∃ t, step failingCaset = .next t ∧
    Records failingCaset t (.returned (.xportFail ⟨5⟩) 0) :=
  ⟨inv_failingCaset, _, rfl, [.completed (casetReq cfg8 ⟨0, 0, 1, 1⟩) (.failed ⟨5⟩) 0], [], rfl⟩

theorem witness_CmdwrSends : (at_ .iIssue 0).phase = .iIssue ∧ (at_ .fRasetIssue 0).phase = .fRasetIssue ∧
    (List.replicate 36 (0 : Byte)).length ≤ 36 ∧ (at_ .iIssue 0).handle ≠ none ∧ (at_ .iIssue 0).inflight = none ∧
    (at_ .iIssue 0).submitAns = .accepted := by decide

theorem witness_EntryOperationsSend : (Instr.slpout [] = .slpout [] ∧ (0x11 : Byte) = (at_ .iIssue 6).cfg.opSlpout) ∧
    (at_ .iIssue 6).phase = .iIssue ∧ ([] : List Byte).length ≤ 36 ∧ (at_ .iIssue 6).handle ≠ none ∧
    (at_ .iIssue 6).inflight = none ∧ (at_ .iIssue 6).submitAns = .accepted := by decide

theorem witness_AddressSetsSend : (65534 : Half).toNat < (65535 : Half).toNat ∧ (at_ .fCasetIssue 0).handle ≠ none ∧
    (at_ .fCasetIssue 0).inflight = none ∧ (at_ .fCasetIssue 0).submitAns = .accepted ∧
    (at_ .fCasetIssue 0).phase = .fCasetIssue ∧ (at_ .fRasetIssue 0).phase = .fRasetIssue := by decide

theorem witness_PixelWritesSend : ([7, 8] : List Byte) ≠ [] ∧ ([7, 8] : List Byte).length % 2 = 0 ∧
    (at_ .fPixIssue 0).phase = .fPixIssue ∧ (at_ .fPixIssue 0).handle ≠ none ∧ (at_ .fPixIssue 0).inflight = none ∧
    (at_ .fPixIssue 0).submitAns = .accepted ∧ (at_ .fPixIssue 0).cfg.opPixwr = 0x2C ∧
    { cfg8 with opPixwr := 0x3C }.opPixwr = 0x3C := by decide

/-- A transport that refuses. -/
def refusing (p : Phase) (idx : Nat) : State := { at_ p idx with submitAns := .refused ⟨7⟩ }

theorem witness_EntryRefusedFailsInit : (0x36 : Byte) = (refusing .iIssue 3).cfg.opMadctl ∧
    (refusing .iIssue 3).phase = .iIssue ∧ (refusing .iIssue 3).handle ≠ none ∧ (refusing .iIssue 3).inflight = none ∧
    (refusing .iIssue 3).scratch = none ∧ (refusing .iIssue 3).submitAns = .refused ⟨7⟩ := by decide

theorem witness_TransactionRefusedFailsFlush : (refusing .fPixIssue 0).handle ≠ none ∧
    (refusing .fPixIssue 0).inflight = none ∧ (refusing .fPixIssue 0).submitAns = .refused ⟨7⟩ ∧
    (refusing .fPixIssue 0).phase = .fPixIssue ∧ (refusing .fPixIssue 0).cfg.opPixwr = 0x2C ∧
    (refusing .fCasetIssue 0).phase = .fCasetIssue ∧ (refusing .fRasetIssue 0).phase = .fRasetIssue := by decide

theorem witness_IllFormedOperandsRefused : 36 < (List.replicate 37 (0 : Byte)).length ∧ (at_ .iIssue 0).phase = .iIssue ∧
    (5 : Half).toNat ≤ (5 : Half).toNat ∧ (at_ .fPixIssue 0).phase = .fPixIssue ∧ ([7] : List Byte).length % 2 = 1 ∧
    ([7, 8] : List Byte) ≠ [] ∧ (at_ .fPixIssue 0).cfg.opPixwr ≠ 0x3C := by decide

theorem witness_UnitOperationsRunOnlyWhereInvoked : ∃ t, exec (.teon [0]) (at_ .iIssue 4) = .next t := ⟨_, rfl⟩

theorem witness_InitStarts : ready.phase = .idle ∧ ready.scratch = none ∧ ready.cfg.wf = true := by decide

theorem witness_FlushStarts : ready.phase = .idle ∧ ready.handle ≠ none ∧ (359 : Half).toNat < (360 : Half).toNat ∧
    (360 : Half).toNat ≤ ready.cfg.panelW ∧ (360 : Half).toNat ≤ ready.cfg.panelH ∧
    ([0x001F] : List Half).length = ((360 : Half).toNat - (359 : Half).toNat) * ((360 : Half).toNat - (359 : Half).toNat) ∧
    2 * ([0x001F] : List Half).length ≤ ready.cfg.maxXferBytes := by decide

/-- One input for each clause of the validation: null, zero area, out of panel, length. -/
theorem witness_FlushRejectsInvalidArguments : ready.phase = .idle ∧ ready.scratch = none ∧
    State.reset.handle = none ∧ ready.handle ≠ none ∧ (5 : Half).toNat ≤ (5 : Half).toNat ∧
    ((360 : Half).toNat < (361 : Half).toNat ∧ (0 : Half).toNat < (1 : Half).toNat ∧ ready.cfg.panelW < (361 : Half).toNat) ∧
    ((360 : Half).toNat ≤ ready.cfg.panelW ∧ (1 : Half).toNat ≤ ready.cfg.panelH ∧
      ([0, 0] : List Half).length ≠ ((360 : Half).toNat - (359 : Half).toNat) * ((1 : Half).toNat - (0 : Half).toNat)) := by
  decide

theorem witness_OutsideTheBlockRefused : ready.phase = .idle ∧ { cfg8 with tRstLow := 9 }.wf = false ∧ ready.handle ≠ none ∧
    (0 : Half).toNat < (1 : Half).toNat ∧ (1 : Half).toNat ≤ ready.cfg.panelW ∧
    ([0] : List Half).length = ((1 : Half).toNat - (0 : Half).toNat) * ((1 : Half).toNat - (0 : Half).toNat) ∧
    { cfg8 with maxXferBytes := 1 }.maxXferBytes < 2 * ([0] : List Half).length := by decide

theorem witness_BusyAcceptsNothing : failingCaset.busy = true ∧ ∃ t, step failingCaset = .next t := ⟨by decide, _, rfl⟩

theorem witness_FrameOperationsFrame :
    (∃ t, exec (.ramwr [7, 8]) (at_ .fPixIssue 0) = .next t ∧ (at_ .fPixIssue 0).submitAns = .accepted) ∧
    (∃ t, exec (.dispon []) (refusing .iIssue 7) = .next t ∧ (refusing .iIssue 7).submitAns = .refused ⟨7⟩) :=
  ⟨⟨_, rfl, rfl⟩, ⟨_, rfl, rfl⟩⟩

theorem witness_HostOperationsFrame : (∃ t, exec (.init true (some ⟨9⟩)) ready = .next t) ∧
    (∃ t, exec (.flush 0 0 1 1 (some [0])) ready = .next t) := ⟨⟨_, rfl⟩, ⟨_, rfl⟩⟩

theorem witness_StepRunsFetchedOperation :
    (ready.moves = [] ∧ { ready with moves := [.block] }.moves = .block :: []) ∧
    (decode cfg8 (.host (encodeInit true none))).toOption = some (.init true none) ∧
    (at_ .iIssue 1).cfg.initTable[1]?.isSome = true ∧ 1 + 6 < (at_ .iIssue 1).cfg.initTable.length ∧
    2 + 6 = (at_ .iIssue 2).cfg.initTable.length ∧ cfg8.wf = true ∧
    { at_ .fPixIssue 0 with scratch := some ⟨2, 0, []⟩ }.scratch = some ⟨2, 0, []⟩ := by decide

theorem witness_StalledTransportHangs : (at_ .fPixWait 0).phase = .fPixWait ∧ (at_ .fPixWait 0).completion = none ∧
    (at_ .fPixWait 0).moves = [] := by decide

theorem witness_ResetPulseSteps : (at_ .iRstLow 0).moves = [] ∧
    (at_ .iRstLow 0).now < (at_ .iRstLow 0).tMark + (at_ .iRstLow 0).cfg.tRstLow ∧
    { at_ .iRstLow 0 with now := 10 }.tMark + cfg8.tRstLow ≤ { at_ .iRstLow 0 with now := 10 }.now ∧
    { at_ .iRstSettle 0 with now := 119 }.now < cfg8.tRstSettle := by decide

/-- Entry 6 of EX8 in flight and done. -/
def entryDone : State :=
  { at_ .iWait 6 with inflight := some (commandReq cfg8 0x11 []), completion := some .done }

theorem witness_ReplayOneEntry : entryDone.moves = [] ∧ entryDone.cfg.initTable[entryDone.idx]? = some ⟨0x11, [], 120⟩ ∧
    entryDone.handle ≠ none ∧ ([] : List Byte).length ≤ 36 ∧ entryDone.scratch = none ∧ entryDone.phase = .iWait ∧
    entryDone.inflight = some (commandReq cfg8 0x11 []) ∧ entryDone.completion = some .done ∧
    (at_ .iIssue 6).phase = .iIssue ∧ (at_ .iDelay 6).now < (at_ .iDelay 6).tMark + 120 ∧
    { at_ .iDelay 6 with now := 120 }.tMark + 120 ≤ { at_ .iDelay 6 with now := 120 }.now := by decide

theorem witness_EntryFailedAtCompletion : { entryDone with completion := some (.failed ⟨7⟩) }.completion = some (.failed ⟨7⟩) ∧
    entryDone.moves = [] ∧ entryDone.cfg.initTable[entryDone.idx]? = some ⟨0x11, [], 120⟩ ∧ entryDone.phase = .iWait ∧
    entryDone.inflight = some (commandReq cfg8 0x11 []) ∧ entryDone.scratch = none := by decide

theorem witness_AddressSetWaits : failingCaset.moves = [] ∧
    failingCaset.inflight = some (casetReq cfg8 ⟨0, 0, 1, 1⟩) ∧ failingCaset.scratch = none ∧
    failingCaset.phase = .fCasetWait ∧ failingCaset.completion = some (.failed ⟨5⟩) ∧
    { failingCaset with completion := some .done }.completion = some .done := by decide

theorem witness_AllocationStep : (at_ .fAlloc 0).moves = [] ∧ (at_ .fAlloc 0).phase = .fAlloc ∧ (at_ .fAlloc 0).scratch = none ∧
    (at_ .fAlloc 0).allocAns = .ok ∧ { at_ .fAlloc 0 with allocAns := .noMem }.allocAns = .noMem := by decide

/-- PERMBUF about to correct the one pixel of a window. -/
def permuting : State :=
  { at_ .fPerm 0 with win := ⟨0, 0, 1, 1⟩, src := some [0x001F], scratch := some ⟨2, 0, []⟩ }

theorem witness_PermbufStep : permuting.moves = [] ∧ permuting.phase = .fPerm ∧ permuting.scratch = some ⟨2, 0, []⟩ ∧
    permuting.pcount < permuting.win.npix ∧ permuting.src = some [0x001F] ∧ ([0x001F] : List Half)[permuting.pcount]? = some 0x001F ∧
    (Scratch.mk 2 0 []).size = 2 * permuting.win.npix ∧ { permuting with pcount := 1 }.pcount = permuting.win.npix := by decide

theorem witness_PixelWriteWait : { at_ .fPixWait 0 with
      inflight := some (colorReq cfg8 0x2C [7, 8]), scratch := some ⟨2, 0, []⟩, completion := some .done }.completion = some .done ∧
    (at_ .fPixWait 0).moves = [] ∧ (at_ .fPixWait 0).completion = none := by decide

/-- `IDLE` with a cooperating environment for a whole INIT. -/
def initReady (rst : Bool) : State := { ready with moves := initScript cfg8 rst ++ [.block] }

theorem witness_InitRunsToOk : (initReady true).phase = .idle ∧ (initReady true).inflight = none ∧
    (initReady true).completion = none ∧ (initReady true).scratch = none ∧ (initReady true).submitAns = .accepted ∧
    (initReady true).cfg.wf = true ∧ (initReady true).moves = initScript (initReady true).cfg true ++ [.block] ∧
    (initReady false).moves = initScript (initReady false).cfg false ++ [.block] := by decide

/-- `IDLE` with a cooperating environment for a whole FLUSH of two pixels. -/
def flushReady : State :=
  { ready with initStatus := .ok, panel := { Panel.unknown with lost := false }, moves := flushScript 2 ++ [.block] }

theorem witness_FlushRunsToOk : flushReady.phase = .idle ∧ flushReady.handle ≠ none ∧ flushReady.inflight = none ∧
    flushReady.completion = none ∧ flushReady.scratch = none ∧ flushReady.submitAns = .accepted ∧ flushReady.allocAns = .ok ∧
    flushReady.cfg.wf = true ∧ windowCause flushReady.cfg ⟨10, 20, 12, 21⟩ [0xF800, 0x07E0] = none ∧
    2 * ([0xF800, 0x07E0] : List Half).length ≤ flushReady.cfg.maxXferBytes ∧
    flushReady.moves = flushScript ([0xF800, 0x07E0] : List Half).length ++ [.block] := by decide

theorem witness_FlushLandsPixels : flushReady.initStatus = .ok ∧ flushReady.panel.held = false ∧
    flushReady.panel.lost = false ∧ flushReady.panel.notBefore ≤ flushReady.now ∧ flushReady.cfg.opPixwr = 0x2C ∧
    flushReady.cfg.opCaset ≠ flushReady.cfg.opRaset ∧ flushReady.cfg.opCaset ≠ flushReady.cfg.opSlpout ∧
    flushReady.cfg.opRaset ≠ flushReady.cfg.opSlpout ∧ ([0xF800, 0x07E0] : List Half)[1]? = some 0x07E0 ∧
    0 < flushReady.cfg.panelW := by decide

theorem witness_StepsOfTheWhole : (∃ t, step failingCaset = .next t) ∧ (∀ ms, failingCaset.moves ≠ .por :: ms) :=
  ⟨⟨_, rfl⟩, fun ms => by simp [failingCaset, at_, ready, State.reset]⟩

/-- `IDLE` with an INIT at the port: for the clauses about a changed handle and about acceptance. -/
theorem witness_PersistentStateWriters : ∃ t, step { ready with hostPort := some (encodeInit true (some ⟨9⟩)) } = .next t ∧
    t.handle ≠ ready.handle ∧ t.rstN ≠ ready.rstN := ⟨_, rfl, by decide, by decide⟩

theorem witness_PersistentLineRise : ∃ t, step { at_ .iRstLow 0 with rstN := .low, now := 10 } = .next t ∧ t.rstN ≠ .low :=
  ⟨_, rfl, by decide⟩

theorem witness_PersistentInitOk :
    ∃ t, step { entryDone with idx := 7 } = .next t ∧ t.initStatus = .ok ∧ entryDone.initStatus ≠ .ok :=
  ⟨_, rfl, by decide, by decide⟩

theorem witness_PersistentInitStatus : ∃ t, step { entryDone with completion := some (.failed ⟨7⟩) } = .next t ∧
    t.initStatus ≠ entryDone.initStatus := ⟨_, rfl, by decide⟩

theorem witness_StatusBits : (∃ t, step { ready with hostPort := some (encodeInit true (some ⟨9⟩)), valid := true } = .next t ∧
      ready.busy = false ∧ t.busy = true ∧ t.valid = false) ∧
    (∃ t, step failingCaset = .next t ∧ failingCaset.busy = true ∧ t.busy = false ∧ failingCaset.valid = false ∧
      t.valid = true ∧ t.result ≠ failingCaset.result) :=
  ⟨⟨_, rfl, by decide, by decide, by decide⟩, ⟨_, rfl, by decide, by decide, by decide, by decide, by decide⟩⟩

theorem witness_SubmittedFramesAreWellFormed : ∃ t, step (at_ .iIssue 5) = .next t ∧
    Records (at_ .iIssue 5) t (.submitted (commandReq cfg8 0x21 []) .accepted 0) := ⟨_, rfl, [], [], rfl⟩

theorem witness_InvariantKept : failingCaset.Inv ∧ ∃ t, step failingCaset = .next t := ⟨inv_failingCaset, _, rfl⟩

theorem witness_NoFaultUnderInvariant : failingCaset.Inv := inv_failingCaset

/-- The trace of a FLUSH of one pixel up to the allocation. -/
def pixelTrace : List Event :=
  [.allocated 2 .ok,
   .completed (rasetReq cfg8 ⟨0, 0, 1, 1⟩) .done 0, .submitted (rasetReq cfg8 ⟨0, 0, 1, 1⟩) .accepted 0,
   .completed (casetReq cfg8 ⟨0, 0, 1, 1⟩) .done 0, .submitted (casetReq cfg8 ⟨0, 0, 1, 1⟩) .accepted 0,
   .accepted (flushOp ⟨0, 0, 1, 1⟩ (some [0x001F])) 0]

/-- FLUSH about to submit its one corrected pixel: a state that meets the invariant. -/
def pixelReady : State :=
  { at_ .fPixIssue 0 with
    win := ⟨0, 0, 1, 1⟩
    src := some [0x001F]
    pcount := 1
    scratch := some ⟨2, 0, [(0, 0xF8), (1, 0x00)]⟩
    trace := pixelTrace }

theorem holds_pixelReady : ScratchHolds .hiFirst 1 1 [0x001F] ⟨2, 0, [(0, 0xF8), (1, 0x00)]⟩ :=
  ⟨rfl, Nat.le_refl 1, rfl, fun i => by
    match i with
    | 0 => decide
    | 1 => decide
    | k + 2 => simp [Memory.read, pixelPayload, pixelBytes]⟩

theorem flushing_pixelTrace : Flushing cfg8 ⟨0, 0, 1, 1⟩ [0x001F] 3 pixelTrace :=
  .buffer _ (.rows 0 0 _ (.columns 0 0 _ (.begun 0 [] (by decide))))

theorem inv_pixelReady : pixelReady.Inv :=
  ⟨fun _ => by decide, fun _ => by decide, by decide, fun h => absurd rfl h, by decide, by decide, by decide, by decide, by decide,
    ⟨[0x001F], _, rfl, flushing_pixelTrace, rfl, holds_pixelReady, rfl⟩⟩

theorem witness_ScratchOnlyInItsPhases : pixelReady.Inv ∧ ∃ t, step pixelReady = .next t ∧ t.scratch ≠ none :=
  ⟨inv_pixelReady, _, rfl, by decide⟩

theorem witness_PixelWriteFollowsItsWindow : pixelReady.Inv ∧ ∃ t r, step pixelReady = .next t ∧ r.dataLines = .quad ∧
    Records pixelReady t (.submitted r .accepted 0) :=
  ⟨inv_pixelReady, _, colorReq cfg8 0x2C [0xF8, 0x00], rfl, rfl, [], [], rfl⟩

theorem witness_ResultMatchesTrace : failingCaset.Inv ∧ ∃ t, step failingCaset = .next t ∧
    Records failingCaset t (.returned (.xportFail ⟨5⟩) 0) := witness_ReturnedStateIsClean

/-- The first `n` entries of EX8 replayed without waiting longer than asked. -/
def replayed (n : Nat) : List Event :=
  (.accepted (.init true (some ⟨7⟩)) 0 :: pulseEvents cfg8 0 ++ replayEvents cfg8 (ex8.take n) 130).reverse

theorem replayed_zero : Replayed cfg8 0 130 (replayed 0) := .pulsed ⟨7⟩ 0 0 10 [] (by decide)
theorem replayed_one : Replayed cfg8 1 135 (replayed 1) := .entry 0 130 130 130 _ _ replayed_zero rfl (by decide) (by decide)
theorem replayed_two : Replayed cfg8 2 135 (replayed 2) := .entry 1 135 135 135 _ _ replayed_one rfl (by decide) (by decide)
theorem replayed_three : Replayed cfg8 3 135 (replayed 3) := .entry 2 135 135 135 _ _ replayed_two rfl (by decide) (by decide)
theorem replayed_four : Replayed cfg8 4 135 (replayed 4) := .entry 3 135 135 135 _ _ replayed_three rfl (by decide) (by decide)
theorem replayed_five : Replayed cfg8 5 135 (replayed 5) := .entry 4 135 135 135 _ _ replayed_four rfl (by decide) (by decide)
theorem replayed_six : Replayed cfg8 6 135 (replayed 6) := .entry 5 135 135 135 _ _ replayed_five rfl (by decide) (by decide)
theorem replayed_seven : Replayed cfg8 7 255 (replayed 7) := .entry 6 135 135 135 _ _ replayed_six rfl (by decide) (by decide)

/-- INIT about to submit entry `n`. -/
def issuing (n now : Nat) : State := { at_ .iIssue n with rstCfg := true, tMark := 10, now := now, trace := replayed n }

theorem inv_issuing_zero : (issuing 0 130).Inv :=
  ⟨fun _ => by decide, fun _ => by decide, by decide, fun h => absurd rfl h, by decide, by decide, by decide, by decide, by decide,
    ⟨_, 130, rfl, replayed_zero, by decide⟩⟩

theorem inv_issuing_seven : (issuing 7 255).Inv :=
  ⟨fun _ => by decide, fun _ => by decide, by decide, fun h => absurd rfl h, by decide, by decide, by decide, by decide, by decide,
    ⟨_, 255, rfl, replayed_seven, by decide⟩⟩

/-- INIT's last entry in flight and done. -/
def lastDone : State :=
  { at_ .iWait 7 with
    now := 255
    inflight := some (entryReq cfg8 ⟨0x29, [], 0⟩)
    completion := some .done
    trace := .submitted (entryReq cfg8 ⟨0x29, [], 0⟩) .accepted 255 :: replayed 7 }

theorem inv_lastDone : lastDone.Inv :=
  ⟨fun _ => by decide, fun _ => by decide, by decide, fun _ => by decide, by decide, by decide, by decide, by decide, by decide,
    ⟨⟨0x29, [], 0⟩, 255, 255, _, rfl, rfl, rfl, replayed_seven, by decide, by decide⟩⟩

/-- The floors: the first entry after the pulse, the display-on entry after the sleep exit, the return. -/
theorem witness_TimingFloorsKept :
    ((issuing 0 130).Inv ∧ ∃ t, step (issuing 0 130) = .next t ∧
      Records (issuing 0 130) t (.submitted (entryReq cfg8 ⟨0xF0, [0x28], 5⟩) .accepted 130)) ∧
    ((issuing 7 255).Inv ∧ ∃ t, step (issuing 7 255) = .next t ∧
      Records (issuing 7 255) t (.submitted (entryReq cfg8 ⟨0x29, [], 0⟩) .accepted 255)) ∧
    (lastDone.Inv ∧ ∃ t, step lastDone = .next t ∧ Records lastDone t (.returned .ok 255)) :=
  ⟨⟨inv_issuing_zero, _, rfl, [], [], rfl⟩, ⟨inv_issuing_seven, _, rfl, [], [], rfl⟩,
    ⟨inv_lastDone, _, rfl, [.completed (entryReq cfg8 ⟨0x29, [], 0⟩) .done 255], [], rfl⟩⟩

theorem witness_FailedInitStops : ∃ s : State, s.Inv ∧ ∃ t, step s = .next t ∧
    Records s t (.returned (.initSeqFail 7 0x29 ⟨7⟩) 255) :=
  ⟨{ issuing 7 255 with submitAns := .refused ⟨7⟩ },
    ⟨inv_issuing_seven.configured, inv_issuing_seven.attached, inv_issuing_seven.slot, inv_issuing_seven.signal,
      inv_issuing_seven.line, inv_issuing_seven.scratch, inv_issuing_seven.params, inv_issuing_seven.mark,
      inv_issuing_seven.panel, inv_issuing_seven.progress⟩,
    _, rfl, [.submitted (entryReq cfg8 ⟨0x29, [], 0⟩) (.refused ⟨7⟩) 255], [], rfl⟩

end Sys2Proof.Tests
end

section
/-! SUPPORT. Who writes the state that outlives an operation, and what a step does to the status bits and the result record
(10_state.md sections 2 and 7). -/

namespace Sys2Proof.Machine

/-! ## What an event's place on the trace says -/

/-- The newest event, put on a trace that grew from that of `s`, is one the step from `s` recorded. -/
theorem Records.of_cons {s t u : State} {e : Event} (ht : t.trace = e :: u.trace) (hu : s.trace <:+ u.trace) :
    Records s t e := by
  obtain ⟨added, ha⟩ := hu
  exact ⟨added, [], by simp [ht, ← ha]⟩

/-- An operation that ends records its result, however much the step had recorded before. -/
theorem Records.of_finish {s u : State} (r : Result) (hu : s.trace <:+ u.trace) :
    Records s (u.finish r) (.returned r u.now) :=
  .of_cons (State.finish_trace r u) (hu.trans (by simp))

/-- A wait step that has consumed a completion has only added to the trace. -/
theorem State.received_suffix (r : Req) (c : Completion) (s : State) : s.trace <:+ (s.received r c).trace :=
  List.suffix_cons _ _

/-! ## A failed transaction, a submission, the step to the next entry: what each writes -/

theorem State.failTransaction_of_init {s : State} (op : Byte) (e : XErr) (h : s.phase.isInit = true) :
    s.failTransaction op e = s.initSeqFail op e := if_pos h

theorem State.failTransaction_of_flush {s : State} (op : Byte) (e : XErr) (h : s.phase.isInit = false) :
    s.failTransaction op e = s.xportFail e := if_neg (by simp [h])

/-- What `Submit` does: the request is in flight, or INIT fails, or FLUSH fails. -/
theorem State.submit_cases (op : Byte) (r : Req) (s : State) :
    s.submit op r = s.sent s.hdr r ∨
      (∃ e, s.phase.isInit = true ∧ s.submit op r = (s.log (.submitted r (.refused e) s.now)).initSeqFail op e) ∨
      (∃ e, s.phase.isInit = false ∧ s.submit op r = (s.log (.submitted r (.refused e) s.now)).xportFail e) := by
  cases ha : s.submitAns with
  | accepted => exact .inl (State.submit_accepted op r ha)
  | refused e =>
    rw [State.submit_refused op r ha]
    cases hp : s.phase.isInit with
    | true => exact .inr (.inl ⟨e, rfl, State.failTransaction_of_init op e hp⟩)
    | false => exact .inr (.inr ⟨e, rfl, State.failTransaction_of_flush op e hp⟩)

/-- What the step past an entry does: the next entry is issued, or INIT returns past the end of the table. -/
theorem State.nextEntry_cases (s : State) :
    (s.idx + 1 < s.cfg.initTable.length ∧ s.nextEntry = { s with idx := s.idx + 1 }.goto .iIssue) ∨
      (s.cfg.initTable.length ≤ s.idx + 1 ∧
        s.nextEntry = { s with idx := s.idx + 1, initStatus := .ok }.returnOk) := by
  by_cases h : s.idx + 1 < s.cfg.initTable.length
  · exact .inl ⟨h, if_pos h⟩
  · exact .inr ⟨Nat.not_lt.1 h, if_neg h⟩

@[simp] theorem State.submit_handle (op : Byte) (r : Req) (s : State) : (s.submit op r).handle = s.handle := by
  rcases s.submit_cases op r with h | ⟨e, -, h⟩ | ⟨e, -, h⟩ <;> simp [h, State.sent]

@[simp] theorem State.submit_rstN (op : Byte) (r : Req) (s : State) : (s.submit op r).rstN = s.rstN := by
  rcases s.submit_cases op r with h | ⟨e, -, h⟩ | ⟨e, -, h⟩ <;> simp [h, State.sent]

theorem State.submit_suffix (op : Byte) (r : Req) (s : State) : s.trace <:+ (s.submit op r).trace := by
  rcases s.submit_cases op r with h | ⟨e, -, h⟩ | ⟨e, -, h⟩ <;>
    simp [h, State.sent, List.suffix_cons_iff, List.suffix_append_of_suffix]

@[simp] theorem State.nextEntry_handle (s : State) : s.nextEntry.handle = s.handle := by
  rcases s.nextEntry_cases with ⟨-, h⟩ | ⟨-, h⟩ <;> simp [h]

@[simp] theorem State.nextEntry_rstN (s : State) : s.nextEntry.rstN = s.rstN := by
  rcases s.nextEntry_cases with ⟨-, h⟩ | ⟨-, h⟩ <;> simp [h]

theorem State.nextEntry_suffix (s : State) : s.trace <:+ s.nextEntry.trace := by
  rcases s.nextEntry_cases with ⟨-, h⟩ | ⟨-, h⟩ <;> simp [h, List.suffix_cons_iff]

@[simp] theorem State.loaded_handle (op : Byte) (ps : List Byte) (s : State) : (s.loaded op ps).handle = s.handle := rfl
@[simp] theorem State.loaded_rstN (op : Byte) (ps : List Byte) (s : State) : (s.loaded op ps).rstN = s.rstN := rfl
@[simp] theorem State.headed_handle (op : Byte) (s : State) : (s.headed op).handle = s.handle := rfl
@[simp] theorem State.headed_rstN (op : Byte) (s : State) : (s.headed op).rstN = s.rstN := rfl
@[simp] theorem State.received_handle (r : Req) (c : Completion) (s : State) : (s.received r c).handle = s.handle := rfl
@[simp] theorem State.received_rstN (r : Req) (c : Completion) (s : State) : (s.received r c).rstN = s.rstN := rfl
@[simp] theorem State.received_initStatus (r : Req) (c : Completion) (s : State) :
    (s.received r c).initStatus = s.initStatus := rfl

@[simp] theorem State.startPulse_initStatus (s : State) : s.startPulse.initStatus = s.initStatus := rfl

/-- Who writes `init_status` when a request is submitted: a refused table entry. -/
theorem State.submit_initStatus (op : Byte) (r : Req) (s : State) :
    (s.submit op r).initStatus = s.initStatus ∨
      (s.phase.isInit = true ∧ (s.submit op r).initStatus = .failed ∧
        ∃ k o e, Records s (s.submit op r) (.returned (.initSeqFail k o e) s.now)) := by
  rcases s.submit_cases op r with h | ⟨e, hp, h⟩ | ⟨e, -, h⟩
  · simp [h, State.sent]
  · rw [h]
    exact .inr ⟨hp, by simp, s.idx, op, e, .of_finish _ (List.suffix_cons _ _)⟩
  · simp [h]

/-- Who writes `init_status` past an entry: the end of the table. `u` is any state that the trace grew from. -/
theorem State.nextEntry_initStatus {u s : State} (hu : u.trace <:+ s.trace) :
    s.nextEntry.initStatus = s.initStatus ∨
      (s.nextEntry.initStatus = .ok ∧ s.cfg.initTable.length ≤ s.nextEntry.idx ∧
        Records u s.nextEntry (.returned .ok s.now)) := by
  rcases s.nextEntry_cases with ⟨-, h⟩ | ⟨hl, h⟩
  · simp [h]
  · rw [h]
    exact .inr ⟨by simp, by simpa using hl, .of_finish _ hu⟩

/-! ## The writers of the persistent state, transition by transition -/

/-- An INIT that is given a handle is the only transition that writes it. -/
theorem Transition.handle_writer {s t : State} (h : Transition s t) :
    t.handle = s.handle ∨ ∃ rst x, t.handle = some x ∧ Records s t (.accepted (.init rst (some x)) s.now) := by
  cases h with
  | initUnpulsed x => exact .inr ⟨false, x, rfl, [], [], rfl⟩
  | initPulsed x => exact .inr ⟨true, x, rfl, [], [.rstDrive .low s.now], rfl⟩
  | _ => exact .inl (by simp)

/-- The two ends of the reset pulse are the only transitions that write the reset line. -/
theorem Transition.rstN_writer {s t : State} (h : Transition s t) :
    t.rstN = s.rstN ∨
      (s.phase = .idle ∧ t.rstN = .low ∧ Records s t (.rstDrive .low s.now) ∧
        ∃ x, Records s t (.accepted (.init true (some x)) s.now)) ∨
      (s.phase = .iRstLow ∧ t.rstN = .high ∧ Records s t (.rstDrive .high s.now)) := by
  cases h with
  | initPulsed x idle =>
    exact .inr (.inl ⟨idle, rfl, ⟨[.accepted (.init true (some x)) s.now], [], rfl⟩,
      x, [], [.rstDrive .low s.now], rfl⟩)
  | lineHigh low => exact .inr (.inr ⟨low, rfl, [], [], rfl⟩)
  | _ => exact .inl (by simp)

/-- The returns of an operation in INIT's phases are the only transitions that write `init_status`. -/
theorem Transition.initStatus_writer {s t : State} (h : Transition s t) :
    t.initStatus = s.initStatus ∨
      (s.phase.isInit = true ∧ t.initStatus = .ok ∧ s.cfg.initTable.length ≤ t.idx ∧ Records s t (.returned .ok s.now)) ∨
      (s.phase.isInit = true ∧ t.initStatus = .failed ∧ ∃ k op e, Records s t (.returned (.initSeqFail k op e) s.now)) := by
  cases h with
  | entrySubmitted e =>
    exact ((s.loaded e.opcode e.parameters).submit_initStatus e.opcode (entryReq s.cfg e)).imp_right .inr
  | casetSubmitted => exact (State.submit_initStatus ..).imp_right .inr
  | rasetSubmitted => exact (State.submit_initStatus ..).imp_right .inr
  | pixelsSubmitted => exact (State.submit_initStatus ..).imp_right .inr
  | entryDone e r wait =>
    have init : s.phase.isInit = true := by simp [wait, Phase.isInit]
    exact (State.nextEntry_initStatus (s.received_suffix r .done)).imp_right fun h => .inl ⟨init, h⟩
  | delayOver e delay =>
    have init : s.phase.isInit = true := by simp [delay, Phase.isInit]
    exact (State.nextEntry_initStatus (List.suffix_refl _)).imp_right fun h => .inl ⟨init, h⟩
  | entryFailed e r x wait =>
    have init : s.phase.isInit = true := by simp [wait, Phase.isInit]
    exact .inr (.inr ⟨init, by simp, s.idx, e.opcode, x, .of_finish _ (s.received_suffix r _)⟩)
  | _ => exact .inl (by simp)

/-! ## One step of any agent -/

/-- One step: a transition of the controller, a move of another agent, or `por`. -/
theorem step_transition {s t : State} (h : step s = .next t) :
    (∃ ms, Transition { s with moves := ms } t) ∨
      (∃ m ms, m ≠ .por ∧ environment m { s with moves := ms } = .next t) ∨
      (∃ ms, s.moves = .por :: ms ∧ t = State.powerOnReset { s with moves := ms }) := by
  rcases step_next h with ⟨ms, hc⟩ | ⟨m, ms, hm, he⟩
  · exact .inl ⟨ms, control_next hc⟩
  · by_cases hp : m = .por
    · subst hp
      cases he
      exact .inr (.inr ⟨ms, hm, rfl⟩)
    · exact .inr (.inl ⟨m, ms, hp, he⟩)

/-- No agent but the controller and `por` writes the block's persistent state or its phase. -/
theorem environment_frame {m : Move} {s t : State} (hm : m ≠ .por) (h : environment m s = .next t) :
    t.handle = s.handle ∧ t.rstN = s.rstN ∧ t.initStatus = s.initStatus ∧ t.phase = s.phase ∧ t.valid = s.valid ∧
      t.result = s.result := by
  cases m with
  | por => exact absurd rfl hm
  | host p =>
    simp only [environment] at h
    split at h <;> cases h
    simp
  | complete c =>
    simp only [environment] at h
    split at h <;> cases h
    simp
  | _ => cases h; simp

/-- Settles O48: of the controller's transitions only the named ones write the handle, the line and `init_status`; the
other agents write none of them, and `por` gives them their reset values. -/
theorem persistentStateWriters : Obligations.PersistentStateWriters := by
  intro s t h
  rcases step_transition h with ⟨ms, ht⟩ | ⟨m, ms, hm, he⟩ | ⟨ms, hm, rfl⟩
  · exact ⟨fun hne => .inr (ht.handle_writer.resolve_left hne), fun hne => .inr (ht.rstN_writer.resolve_left hne),
      fun hne => .inr (ht.initStatus_writer.resolve_left hne)⟩
  · obtain ⟨hh, hl, hi, -⟩ := environment_frame hm he
    exact ⟨fun hne => absurd hh hne, fun hne => absurd hl hne, fun hne => absurd hi hne⟩
  · exact ⟨fun _ => .inl ⟨ms, hm, rfl⟩, fun _ => .inl ⟨ms, hm, rfl⟩, fun _ => .inl ⟨ms, hm, rfl⟩⟩

/-! ## The trace only grows -/

theorem Transition.trace_suffix {s t : State} (h : Transition s t) : s.trace <:+ t.trace := by
  cases h with
  | entrySubmitted e => exact (s.loaded e.opcode e.parameters).submit_suffix _ _
  | casetSubmitted => exact (s.loaded _ _).submit_suffix _ _
  | rasetSubmitted => exact (s.loaded _ _).submit_suffix _ _
  | pixelsSubmitted => exact (s.headed _).submit_suffix _ _
  | entryDone _ r => exact (s.received_suffix r .done).trans (State.nextEntry_suffix _)
  | delayOver => exact s.nextEntry_suffix
  | _ => simp [State.received, State.startPulse, List.suffix_cons_iff, List.suffix_append_of_suffix]

/-- Every step puts its events in front of the trace. -/
theorem step_trace_suffix {s t : State} (h : step s = .next t) : s.trace <:+ t.trace := by
  rcases step_transition h with ⟨ms, ht⟩ | ⟨m, ms, -, he⟩ | ⟨ms, -, rfl⟩
  · exact ht.trace_suffix
  · rw [environment_trace he]
  · exact List.suffix_refl _

/-! ## The status bits and the result record -/

/-- The events by which an operation enters and leaves at the host port. -/
@[simp] def Event.atHostPort : Event → Bool
  | .accepted _ _ => true
  | .returned _ _ => true
  | _ => false

/-- What 10_state.md section 7 has of a state: the status bits, the result record, the time, and the events at the host
port. -/
structure Status where
  busy   : Bool
  valid  : Bool
  result : Result
  now    : Nat
  events : List Event

/-- The status of a state. -/
def State.status (s : State) : Status :=
  ⟨s.busy, s.valid, s.result, s.now, s.trace.filter Event.atHostPort⟩

/-- What a step other than `por` can do to the status. -/
inductive StatusEffect (a b : Status) : Prop where
  /-- Nothing enters or leaves. -/
  | kept (busy : b.busy = a.busy) (valid : b.valid = a.valid) (result : b.result = a.result)
      (events : b.events = [] ++ a.events)
  /-- An operation is accepted and begins. -/
  | started (i : Instr) (idle : a.busy = false) (busy : b.busy = true) (valid : b.valid = false)
      (result : b.result = a.result) (events : b.events = [.accepted i a.now] ++ a.events)
  /-- The operation in progress returns. -/
  | returned (r : Result) (busy : a.busy = true) (idle : b.busy = false) (valid : b.valid = true) (result : b.result = r)
      (events : b.events = [.returned r a.now] ++ a.events)
  /-- An operation is accepted and returns in the same step. -/
  | rejected (i : Instr) (r : Result) (idle : a.busy = false) (still : b.busy = false) (valid : b.valid = true)
      (result : b.result = r) (events : b.events = [.returned r a.now, .accepted i a.now] ++ a.events)

/-- Releasing the scratch buffer is no event at the host port. -/
@[simp] theorem released_filter_atHostPort (b : Option Scratch) (t : Nat) :
    (released b t).filter Event.atHostPort = [] := by
  cases b <;> rfl

@[simp] theorem State.status_busy (s : State) : s.status.busy = s.busy := rfl
@[simp] theorem State.status_valid (s : State) : s.status.valid = s.valid := rfl
@[simp] theorem State.status_result (s : State) : s.status.result = s.result := rfl
@[simp] theorem State.status_now (s : State) : s.status.now = s.now := rfl

theorem State.busy_eq_true {s : State} : s.busy = true ↔ s.phase ≠ .idle := decide_eq_true_iff

theorem State.busy_of_phase {s : State} {p : Phase} (hp : s.phase = p) (hn : p ≠ .idle := by decide) : s.busy = true :=
  State.busy_eq_true.2 (hp ▸ hn)

theorem State.busy_eq_false {s : State} : s.busy = false ↔ s.phase = .idle := by simp [State.busy]

/-- An operation in progress that ends returns. -/
theorem StatusEffect.finish {s : State} (r : Result) (hb : s.busy = true) : StatusEffect s.status (s.finish r).status :=
  .returned r hb (by simp [State.busy]) (by simp) (by simp)
    (by simp [State.status, List.filter_cons])

/-- An operation that is accepted and ends at once is rejected. -/
theorem StatusEffect.reject {s u : State} (i : Instr) (r : Result) (hi : s.phase = .idle) (hnow : u.now = s.now)
    (htrace : u.trace = .accepted i s.now :: s.trace) : StatusEffect s.status (u.finish r).status :=
  .rejected i r (State.busy_eq_false.2 hi) (by simp [State.busy]) (by simp) (by simp)
    (by simp [State.status, List.filter_cons, hnow, htrace])

/-- The wait phase of a busy phase is busy. -/
theorem Phase.waitPhase_ne_idle {p : Phase} (h : p ≠ .idle) : p.waitPhase ≠ .idle := by
  cases p <;> simp_all [Phase.waitPhase]

/-- A submission leaves the operation in progress waiting, or returns its failure. -/
theorem StatusEffect.submit {s : State} (op : Byte) (r : Req) (busy : s.busy = true) :
    StatusEffect s.status (s.submit op r).status := by
  rcases s.submit_cases op r with h | ⟨e, -, h⟩ | ⟨e, -, h⟩ <;> rw [h]
  · have waits : (s.sent s.hdr r).busy = true :=
      State.busy_eq_true.2 (Phase.waitPhase_ne_idle (State.busy_eq_true.1 busy))
    exact .kept (waits.trans busy.symm) rfl rfl rfl
  · exact .finish
      (s := { s.log (.submitted r (.refused e) s.now) with initStatus := .failed, panel := s.panel.abandon }) _ busy
  · exact .finish (s := s.log (.submitted r (.refused e) s.now)) _ busy

/-- The step past an entry goes on with INIT, or returns. -/
theorem StatusEffect.nextEntry {s : State} (busy : s.busy = true) : StatusEffect s.status s.nextEntry.status := by
  rcases s.nextEntry_cases with ⟨-, h⟩ | ⟨-, h⟩ <;> rw [h]
  · exact .kept busy.symm rfl rfl rfl
  · exact .finish (s := { s with idx := s.idx + 1, initStatus := .ok }) _ busy

/-- What a transition of the controller does to the status. -/
theorem Transition.statusEffect {s t : State} (h : Transition s t) : StatusEffect s.status t.status := by
  cases h with
  | stay => exact .kept rfl rfl rfl rfl
  | initRejected rst idle => exact .reject (.init rst none) _ idle rfl rfl
  | flushRejected w src c idle => exact .reject (flushOp w src) _ idle rfl rfl
  | initUnpulsed x idle => exact .started (.init false (some x)) (State.busy_eq_false.2 idle) rfl rfl rfl rfl
  | initPulsed x idle => exact .started (.init true (some x)) (State.busy_eq_false.2 idle) rfl rfl rfl rfl
  | flushStarted w src idle => exact .started (flushOp w src) (State.busy_eq_false.2 idle) rfl rfl rfl rfl
  | entrySubmitted e issue => exact .submit (s := s.loaded e.opcode e.parameters) _ _ (State.busy_of_phase issue)
  | casetSubmitted issue => exact .submit (s := s.loaded _ _) _ _ (State.busy_of_phase issue)
  | rasetSubmitted issue => exact .submit (s := s.loaded _ _) _ _ (State.busy_of_phase issue)
  | pixelsSubmitted b issue => exact .submit (s := s.headed _) _ _ (State.busy_of_phase issue)
  | entryDone e r wait => exact .nextEntry (s := s.received r .done) (State.busy_of_phase wait)
  | delayOver e delay => exact .nextEntry (State.busy_of_phase delay)
  | lineHigh at_phase | settled at_phase | delayStarted _ _ at_phase | casetDone _ at_phase | rasetDone _ at_phase
  | granted at_phase | corrected _ _ _ at_phase | allCorrected at_phase =>
    exact .kept (by simp [State.busy, at_phase]) rfl rfl rfl
  | entryFailed e r x wait =>
    exact .finish (s := { s.received r (.failed x) with initStatus := .failed, panel := s.panel.abandon }) _
      (State.busy_of_phase wait)
  | transactionFailed r x waits =>
    have busy : s.busy = true := State.busy_eq_true.2 (by rcases waits with h | h | h <;> simp [h])
    exact .finish (s := s.received r (.failed x)) _ busy
  | denied alloc => exact .finish (s := s.log (.allocated (2 * s.win.npix) .noMem)) _ (State.busy_of_phase alloc)
  | pixelsDone r wait => exact .finish (s := s.received r .done) _ (State.busy_of_phase wait)

/-- What a step other than `por` does to the status. -/
theorem step_statusEffect {s t : State} (h : step s = .next t) (hpor : ∀ ms, s.moves ≠ .por :: ms) :
    StatusEffect s.status t.status := by
  rcases step_transition h with ⟨ms, ht⟩ | ⟨m, ms, hm, he⟩ | ⟨ms, hm, -⟩
  · exact ht.statusEffect
  · obtain ⟨-, -, -, hp, hv, hr⟩ := environment_frame hm he
    exact .kept (by simp [State.busy, hp]) hv hr (by simp [State.status, environment_trace he])
  · exact absurd hm (hpor ms)

/-- A step records those events at the host port that the status gained. -/
theorem records_iff_of_status {s t : State} {gained : List Event} (grows : s.trace <:+ t.trace)
    (events : t.status.events = gained ++ s.status.events) {e : Event} (he : e.atHostPort = true) :
    Records s t e ↔ e ∈ gained := by
  obtain ⟨added, ha⟩ := grows
  have hg : added.filter Event.atHostPort = gained := by
    simpa [State.status, ← ha] using events
  rw [records_iff ha.symm, ← hg, List.mem_filter, and_iff_left he]

theorem records_accepted_iff {s t : State} {gained : List Event} (grows : s.trace <:+ t.trace)
    (events : t.status.events = gained ++ s.status.events) (i : Instr) (n : Nat) :
    Records s t (.accepted i n) ↔ .accepted i n ∈ gained := records_iff_of_status grows events rfl

theorem records_returned_iff {s t : State} {gained : List Event} (grows : s.trace <:+ t.trace)
    (events : t.status.events = gained ++ s.status.events) (r : Result) (n : Nat) :
    Records s t (.returned r n) ↔ .returned r n ∈ gained := records_iff_of_status grows events rfl

/-- A busy block accepts nothing. -/
theorem StatusEffect.busy_accepts_nothing {s t : State} (grows : s.trace <:+ t.trace)
    (h : StatusEffect s.status t.status) (hb : s.busy = true) (i : Instr) (n : Nat) : ¬ Records s t (.accepted i n) := by
  cases h with
  | kept _ _ _ events => simp [records_accepted_iff grows events]
  | started _ idle => simp [hb] at idle
  | returned _ _ _ _ _ events => simp [records_accepted_iff grows events]
  | rejected _ _ idle => simp [hb] at idle

/-- No step of a busy block accepts an operation, `por` among them. -/
theorem step_busy_accepts_nothing {s t : State} (h : step s = .next t) (hb : s.busy = true) (i : Instr) (n : Nat) :
    ¬ Records s t (.accepted i n) := by
  rcases step_transition h with ⟨ms, ht⟩ | ⟨m, ms, -, he⟩ | ⟨ms, -, rfl⟩
  · exact StatusEffect.busy_accepts_nothing (s := s) ht.trace_suffix ht.statusEffect hb i n
  · exact not_records_same (environment_trace he) _
  · exact not_records_same rfl _

/-- What the status bits and the result record say of a step that had this effect (10_state.md section 7, R25). -/
theorem StatusEffect.changes {s t : State} (grows : s.trace <:+ t.trace) (h : StatusEffect s.status t.status) :
    (s.busy = false → t.busy = true → ∃ i, Records s t (.accepted i s.now)) ∧
    (s.busy = true → t.busy = false → ∃ r, Records s t (.returned r s.now)) ∧
    (s.valid = false → t.valid = true → ∃ r, Records s t (.returned r s.now)) ∧
    (s.valid = true → t.valid = false → ∃ i, Records s t (.accepted i s.now)) ∧
    (t.result ≠ s.result → Records s t (.returned t.result s.now)) ∧
    (∀ r n, Records s t (.returned r n) → t.valid = true ∧ t.result = r ∧ t.busy = false) := by
  cases h with
  | kept busy valid result events =>
    simp only [State.status_busy, State.status_valid, State.status_result] at busy valid result
    simp +contextual [records_accepted_iff grows events, records_returned_iff grows events, busy, valid, result]
  | started i idle busy valid result events =>
    simp only [State.status_busy, State.status_valid, State.status_result] at idle busy valid result
    simp [records_accepted_iff grows events, records_returned_iff grows events, idle, busy, valid, result]
  | returned r busy idle valid result events =>
    simp only [State.status_busy, State.status_valid, State.status_result] at busy idle valid result
    simp +contextual [records_accepted_iff grows events, records_returned_iff grows events, busy, idle, valid, result]
  | rejected i r idle still valid result events =>
    simp only [State.status_busy, State.status_valid, State.status_result] at idle still valid result
    simp +contextual [records_accepted_iff grows events, records_returned_iff grows events, idle, still, valid, result]

/-- Settles O49: the codes and fields by the constructors of the result, the bits by the effect that each step has on the
status. -/
theorem statusBits : Obligations.StatusBits := by
  refine ⟨fun s => ⟨rfl, rfl⟩, rfl,
    ⟨rfl, fun _ => rfl, rfl, fun _ => rfl, fun _ _ _ => rfl, rfl, rfl, rfl, rfl⟩, ?_, ?_, ?_⟩
  · intro r
    cases r <;> simp [Result.cause, Result.xerr, eq_comm]
  · exact fun s t h hb => step_busy_accepts_nothing h hb
  · exact fun s t h hpor => (step_statusEffect h hpor).changes (step_trace_suffix h)

end Sys2Proof.Machine
end

section
/-! SUPPORT. The configuration is strapped: no step of any agent writes it (00_scope.md R11, 10_state.md R42). -/

namespace Sys2Proof.Machine

@[simp] theorem State.submit_cfg (op : Byte) (r : Req) (s : State) : (s.submit op r).cfg = s.cfg := by
  rcases s.submit_cases op r with h | ⟨e, -, h⟩ | ⟨e, -, h⟩ <;> simp [h, State.sent]

@[simp] theorem State.nextEntry_cfg (s : State) : s.nextEntry.cfg = s.cfg := by
  rcases s.nextEntry_cases with ⟨-, h⟩ | ⟨-, h⟩ <;> simp [h]

@[simp] theorem State.loaded_cfg (op : Byte) (ps : List Byte) (s : State) : (s.loaded op ps).cfg = s.cfg := rfl
@[simp] theorem State.headed_cfg (op : Byte) (s : State) : (s.headed op).cfg = s.cfg := rfl
@[simp] theorem State.received_cfg (r : Req) (c : Completion) (s : State) : (s.received r c).cfg = s.cfg := rfl
@[simp] theorem State.startPulse_cfg (s : State) : s.startPulse.cfg = s.cfg := rfl

/-- No transition of the controller writes the configuration. -/
theorem Transition.cfg_eq {s t : State} (h : Transition s t) : t.cfg = s.cfg := by
  cases h <;> simp

/-- No other agent's move writes the configuration, `por` included. -/
theorem environment_cfg {m : Move} {s t : State} (h : environment m s = .next t) : t.cfg = s.cfg := by
  cases m with
  | host p =>
    simp only [environment] at h
    split at h <;> cases h
    rfl
  | complete c =>
    simp only [environment] at h
    split at h <;> cases h
    rfl
  | _ => cases h; rfl

/-- No step writes the configuration. -/
theorem step_cfg {s t : State} (h : step s = .next t) : t.cfg = s.cfg := by
  rcases step_next h with ⟨ms, hc⟩ | ⟨m, ms, -, he⟩
  · exact (control_next hc).cfg_eq
  · exact (environment_cfg he).trans rfl

/-- Settles O46: no transition of the controller and no move of another agent writes the configuration, and the init
table is a part of it; the fetched entry is the table's by definition. -/
theorem configNeverWritten : Obligations.ConfigNeverWritten :=
  ⟨fun _ _ h => ⟨step_cfg h, congrArg Config.initTable (step_cfg h)⟩, fun _ => rfl⟩

end Sys2Proof.Machine
end

section
/-! SUPPORT. What a step submits, and that the scratch buffer of a finished correction is the payload of its FLUSH
(44_flush_pipeline.md section 2, 30_encoding.md R107). -/

namespace Sys2Proof.Machine

/-! ## The request that a step submits -/

/-- The submissions on a trace. -/
@[simp] def Event.isSubmitted : Event → Bool
  | .submitted _ _ _ => true
  | _ => false

/-- Releasing the scratch buffer is no submission. -/
@[simp] theorem released_filter_isSubmitted (b : Option Scratch) (t : Nat) :
    (released b t).filter Event.isSubmitted = [] := by
  cases b <;> rfl

/-- The submissions of a state's trace. -/
def State.submissions (s : State) : List Event := s.trace.filter Event.isSubmitted

/-- A step records those submissions that it puts in front of the earlier ones. -/
theorem records_submitted_iff {s t : State} {gained : List Event} (grows : s.trace <:+ t.trace)
    (h : t.submissions = gained ++ s.submissions) (r : Req) (a : SubmitAnswer) (n : Nat) :
    Records s t (.submitted r a n) ↔ .submitted r a n ∈ gained := by
  obtain ⟨added, ha⟩ := grows
  have hg : added.filter Event.isSubmitted = gained := by simpa [State.submissions, ← ha] using h
  rw [records_iff ha.symm, ← hg, List.mem_filter, and_iff_left (by rfl)]

/-- An operation that ends submits nothing by it. -/
@[simp] theorem State.submissions_finish (r : Result) (s : State) : (s.finish r).submissions = s.submissions := by
  simp [State.submissions]

/-- A `Submit` is one submission, whatever the transport answers. -/
theorem State.submissions_submit (op : Byte) (r : Req) (s : State) :
    (s.submit op r).submissions = .submitted r s.submitAns s.now :: s.submissions := by
  cases ha : s.submitAns with
  | accepted => rw [State.submit_accepted op r ha]; rfl
  | refused e =>
    rw [State.submit_refused op r ha, State.failTransaction]
    split
    · rw [State.initSeqFail, State.raise, State.submissions_finish]; rfl
    · rw [State.xportFail, State.raise, State.submissions_finish]; rfl

/-- The step past an entry submits nothing. -/
@[simp] theorem State.submissions_nextEntry (s : State) : s.nextEntry.submissions = s.submissions := by
  rcases s.nextEntry_cases with ⟨-, h⟩ | ⟨-, h⟩ <;> simp [h, State.returnOk] <;> rfl

/-- Where a request comes from: a command write of at most 36 bytes, or the pixel write of the scratch buffer under the
configured opcode. -/
def State.Issues (s : State) (r : Req) : Prop :=
  (∃ op ps, r = commandReq s.cfg op ps ∧ ps.length ≤ maxParams) ∨
    ∃ b, s.phase = .fPixIssue ∧ s.scratch = some b ∧ r = colorReq s.cfg s.cfg.opPixwr b.payload ∧
      (b.payload ≠ [] ∧ b.payload.length % 2 = 0) ∧ (s.cfg.opPixwr = 0x2C ∨ s.cfg.opPixwr = 0x3C)

/-- An address set is within the parameter buffer. -/
theorem sidePayload_short (a b : Half) : (sidePayload a b).length ≤ maxParams := Nat.le_of_ble_eq_true rfl

/-- What a transition of the controller submits: nothing, or one request under the precondition of `Submit`. -/
theorem Transition.submissions {s t : State} (h : Transition s t) :
    t.submissions = s.submissions ∨
      ∃ r, t.submissions = .submitted r s.submitAns s.now :: s.submissions ∧ s.handle ≠ none ∧ s.inflight = none ∧
        s.Issues r := by
  cases h with
  | entrySubmitted e _ _ short attached free =>
    exact .inr ⟨_, State.submissions_submit .., attached, free, .inl ⟨_, _, rfl, short⟩⟩
  | casetSubmitted _ _ attached free =>
    exact .inr ⟨_, State.submissions_submit .., attached, free, .inl ⟨_, _, rfl, sidePayload_short _ _⟩⟩
  | rasetSubmitted _ _ attached free =>
    exact .inr ⟨_, State.submissions_submit .., attached, free, .inl ⟨_, _, rfl, sidePayload_short _ _⟩⟩
  | pixelsSubmitted b at_phase held some_bytes even opcode attached free =>
    exact .inr ⟨_, State.submissions_submit .., attached, free,
      .inr ⟨b, at_phase, held, rfl, ⟨some_bytes, even⟩, opcode⟩⟩
  | entryDone e r => exact .inl (State.submissions_nextEntry _)
  | delayOver => exact .inl (State.submissions_nextEntry _)
  | _ => exact .inl (by simp [State.submissions, State.received, State.startPulse])

/-- What a step submits: a handle is stored, the slot is free, the answer and the time are those of the moment. -/
theorem step_submitted {s t : State} {r : Req} {a : SubmitAnswer} {n : Nat} (h : step s = .next t)
    (hr : Records s t (.submitted r a n)) :
    a = s.submitAns ∧ n = s.now ∧ s.handle ≠ none ∧ s.inflight = none ∧ s.Issues r := by
  rcases step_transition h with ⟨ms, ht⟩ | ⟨m, ms, -, he⟩ | ⟨ms, -, rfl⟩
  · have grows : s.trace <:+ t.trace := ht.trace_suffix
    rcases ht.submissions with hs | ⟨q, hs, attached, free, hq⟩
    · rw [records_submitted_iff (gained := []) grows hs] at hr
      cases hr
    · rw [records_submitted_iff (gained := [_]) grows hs, List.mem_singleton] at hr
      cases hr
      exact ⟨rfl, rfl, attached, free, hq⟩
  · exact absurd hr (not_records_same (environment_trace he) _)
  · exact absurd hr (not_records_same rfl _)

/-! ## The payload of the scratch buffer -/

/-- A scratch buffer that reads as `bytes` over its whole size is sent as `bytes`. -/
theorem Scratch.payload_eq {b : Scratch} {bytes : List Byte} (size : b.size = bytes.length)
    (content : ∀ i, Memory.read b.bytes i = bytes[i]?) : b.payload = bytes := by
  apply List.ext_getElem
  · simp [Scratch.payload, size]
  · intro i hi hb
    simp [Scratch.payload, Scratch.read, content, hb]

/-- A window that FLUSH accepts: positive extents, inside the panel, and a pixel for every position. -/
theorem windowCause_eq_none {c : Config} {w : Window} {px : List Half} :
    windowCause c w px = none ↔
      (w.x0.toNat < w.x1.toNat ∧ w.y0.toNat < w.y1.toNat) ∧ (w.x1.toNat ≤ c.panelW ∧ w.y1.toNat ≤ c.panelH) ∧
        px.length = w.npix := by
  have zero : w.zeroArea = false ↔ w.x0.toNat < w.x1.toNat ∧ w.y0.toNat < w.y1.toNat := by simp [Window.zeroArea]
  have out : w.outOfPanel c = false ↔ w.x1.toNat ≤ c.panelW ∧ w.y1.toNat ≤ c.panelH := by simp [Window.outOfPanel]
  rw [← zero, ← out, windowCause]
  split
  · simp [*]
  · split <;> simp [*]

/-- The buffer of a finished correction is the payload of the source (43_color_permutation.md R210,
30_encoding.md R107). -/
theorem ScratchHolds.payload {o : PixOrder} {npix : Nat} {px : List Half} {b : Scratch}
    (h : ScratchHolds o npix npix px b) (hl : px.length = npix) : b.payload = pixelPayload o px := by
  have whole : px.take npix = px := List.take_of_length_le (Nat.le_of_eq hl)
  exact Scratch.payload_eq (by rw [h.size, pixelPayload_length, hl]) fun i => by rw [h.content i, whole]

/-! ## The trace of a FLUSH before its pixel write -/

/-- The trace of a FLUSH that holds its buffer: acceptance, column set, row set, allocation, nothing between. -/
theorem Flushing.trace_at_buffer {c : Config} {w : Window} {px : List Half} {tr : List Event}
    (h : Flushing c w px 3 tr) :
    windowCause c w px = none ∧ ∃ t0 t1 t2 t3 t4 older,
      tr = .allocated (2 * w.npix) .ok ::
        .completed (rasetReq c w) .done t4 :: .submitted (rasetReq c w) .accepted t3 ::
        .completed (casetReq c w) .done t2 :: .submitted (casetReq c w) .accepted t1 ::
        .accepted (flushOp w (some px)) t0 :: older := by
  obtain _ | _ | _ | ⟨_, h⟩ := h
  obtain _ | _ | ⟨t3, t4, _, h⟩ := h
  obtain _ | ⟨t1, t2, _, h⟩ := h
  obtain ⟨t0, older, valid⟩ := h
  exact ⟨valid, t0, t1, t2, t3, t4, older, rfl⟩

/-- Settles O58: a request on four lines is the pixel write of the scratch buffer, and in its phase the invariant says
what the buffer holds and what the trace is. -/
theorem pixelWriteFollowsItsWindow : Obligations.PixelWriteFollowsItsWindow := by
  intro s t r a n inv h hr quad
  obtain ⟨-, -, -, -, issues⟩ := step_submitted h hr
  rcases issues with ⟨op, ps, req, -⟩ | ⟨b, at_phase, held, req, -, -⟩
  · simp [req, commandReq] at quad
  · have hp := inv.progress
    simp only [State.progress, at_phase] at hp
    obtain ⟨px, b', hsrc, flushing, hb, holds, hcount⟩ := hp
    obtain rfl : b = b' := Option.some.inj (held.symm.trans hb)
    obtain ⟨valid, t0, t1, t2, t3, t4, older, htrace⟩ := flushing.trace_at_buffer
    obtain ⟨-, -, hl⟩ := windowCause_eq_none.1 valid
    rw [hcount] at holds
    refine ⟨px, t0, t1, t2, t3, t4, older, hsrc, ?_, valid, htrace⟩
    rw [req, holds.payload hl, pixelReq]

end Sys2Proof.Machine
end

section
/-! SUPPORT. What the observer's panel shows of a window and a pixel write (20_memory.md R66, R84 to R87). -/

namespace Sys2Proof

/-- The pixels read back from a payload are the corrected ones. -/
theorem pixelsOfBytes_pixelPayload (o : PixOrder) (px : List Half) :
    pixelsOfBytes o (pixelPayload o px) = px.map perm := by
  induction px with
  | nil => rfl
  | cons p px ih => cases o <;> simp [pixelPayload_cons, pixelBytes, pixelsOfBytes, pixelOfBytes, ih]

namespace Machine

/-! ## Addresses in PFM -/

/-- A place of the panel has one address. -/
theorem pixelAddress_inj {c : Config} {x y x' y' : Nat} (hx : x < c.panelW) (hx' : x' < c.panelW) :
    pixelAddress c x y = pixelAddress c x' y' ↔ x = x' ∧ y = y' := by
  refine ⟨fun h => ?_, by rintro ⟨rfl, rfl⟩; rfl⟩
  have column (x y : Nat) (hx : x < c.panelW) : pixelAddress c x y % c.panelW = x := by
    rw [pixelAddress, Nat.mul_add_mod_self_right, Nat.mod_eq_of_lt hx]
  obtain rfl : x = x' := by rw [← column x y hx, h, column x' y' hx']
  have rows : y * c.panelW = y' * c.panelW := by simpa [pixelAddress] using h
  exact ⟨rfl, Nat.eq_of_mul_eq_mul_right (by omega) rows⟩

/-- Place of pixel `k` of a window in PFM (20_memory.md R66). -/
def windowAddress (c : Config) (w : Window) (k : Nat) : Nat :=
  pixelAddress c (w.position k).1 (w.position k).2

/-- The positions of a window lie in it. -/
theorem Window.position_inside {w : Window} {k : Nat} (hk : k < w.npix) :
    (w.x0.toNat ≤ (w.position k).1 ∧ (w.position k).1 < w.x1.toNat) ∧
      w.y0.toNat ≤ (w.position k).2 ∧ (w.position k).2 < w.y1.toNat := by
  have hpos : 0 < w.width := Nat.pos_of_mul_pos_right (Nat.zero_lt_of_lt hk)
  have column : k % w.width < w.width := Nat.mod_lt k hpos
  have row : k / w.width < w.height := Nat.div_lt_of_lt_mul hk
  generalize hd : k / w.width = d at row
  generalize hm : k % w.width = m at column
  simp only [Window.position, hd, hm]
  simp only [Window.width, Window.height] at column row
  omega

/-- Pixels of a window that is inside the panel have different places. -/
theorem windowAddress_inj {c : Config} {w : Window} {j k : Nat} (inside : w.x1.toNat ≤ c.panelW) (hj : j < w.npix)
    (hk : k < w.npix) (h : windowAddress c w j = windowAddress c w k) : j = k := by
  have column (i : Nat) (hi : i < w.npix) : (w.position i).1 < c.panelW :=
    Nat.lt_of_lt_of_le (Window.position_inside hi).1.2 inside
  obtain ⟨hmod, hdiv⟩ := (pixelAddress_inj (column j hj) (column k hk)).1 h
  simp only [Window.position, Nat.add_left_cancel_iff] at hmod hdiv
  rw [← Nat.div_add_mod j w.width, hmod, hdiv, Nat.div_add_mod]

/-! ## Placing pixels -/

/-- Placing pixels leaves every address alone that none of them has. -/
theorem read_placePixels_other (c : Config) (w : Window) (k : Nat) (vs : List Half) (m : Memory Half) {a : Nat}
    (h : ∀ j, k ≤ j → j < k + vs.length → a ≠ windowAddress c w j) :
    Memory.read (placePixels c w k vs m) a = Memory.read m a := by
  induction vs generalizing k m with
  | nil => rfl
  | cons v vs ih =>
    rw [placePixels, ih (k + 1) _ fun j hj hl => h j (by omega) (by simp only [List.length_cons]; omega)]
    exact Memory.read_write_other m v (h k (Nat.le_refl k) (by simp))

/-- A placed pixel is read back at its place, if no later one has the same place. -/
theorem read_placePixels_at (c : Config) (w : Window) (k i : Nat) (vs : List Half) (m : Memory Half) {v : Half}
    (hv : vs[i]? = some v)
    (h : ∀ j, k + i < j → j < k + vs.length → windowAddress c w (k + i) ≠ windowAddress c w j) :
    Memory.read (placePixels c w k vs m) (windowAddress c w (k + i)) = some v := by
  induction vs generalizing k i m with
  | nil => simp at hv
  | cons u vs ih =>
    cases i with
    | zero =>
      obtain rfl : u = v := by simpa using hv
      rw [placePixels, read_placePixels_other c w (k + 1) vs _ fun j hj hl =>
        h j (by omega) (by simp only [List.length_cons]; omega)]
      exact Memory.read_write_same _ _ _
    | succ i =>
      rw [show k + (i + 1) = k + 1 + i by omega] at h ⊢
      exact ih (k + 1) i _ (by simpa using hv) fun j hj hl => h j hj (by simp only [List.length_cons]; omega)

/-- Pixels that fill a window inside the panel are read back at the window's positions. -/
theorem read_placePixels_inside {c : Config} {w : Window} {vs : List Half} (m : Memory Half) {k : Nat} {v : Half}
    (inside : w.x1.toNat ≤ c.panelW) (fills : vs.length = w.npix) (hv : vs[k]? = some v) :
    Memory.read (placePixels c w 0 vs m) (windowAddress c w k) = some v := by
  obtain ⟨hk, -⟩ := List.getElem?_eq_some_iff.1 hv
  have later_differ (j : Nat) (hj : 0 + k < j) (hl : j < 0 + vs.length) :
      windowAddress c w (0 + k) ≠ windowAddress c w j := fun same => by
    have := windowAddress_inj inside (by omega) (by omega) same
    omega
  simpa using read_placePixels_at c w 0 k vs m hv later_differ

/-- Pixels that fill a window inside the panel leave every place outside the window alone. -/
theorem read_placePixels_outside {c : Config} {w : Window} {vs : List Half} (m : Memory Half) {x y : Nat}
    (inside : w.x1.toNat ≤ c.panelW) (fills : vs.length = w.npix) (hx : x < c.panelW)
    (outside : ¬ (w.x0.toNat ≤ x ∧ x < w.x1.toNat ∧ w.y0.toNat ≤ y ∧ y < w.y1.toNat)) :
    Memory.read (placePixels c w 0 vs m) (pixelAddress c x y) = Memory.read m (pixelAddress c x y) := by
  refine read_placePixels_other c w 0 vs m fun j _ hj same => ?_
  obtain ⟨⟨left, right⟩, top, bottom⟩ := Window.position_inside (w := w) (k := j) (by omega)
  obtain ⟨rfl, rfl⟩ := (pixelAddress_inj hx (Nat.lt_of_lt_of_le right inside)).1 same
  exact outside ⟨left, right, top, bottom⟩

/-! ## Frames that a panel takes -/

/-- The panel's state is defined, and it accepts commands sent at time `t` (20_memory.md R86 to R88). -/
structure Panel.Accepts (p : Panel) (t : Nat) : Prop where
  released : p.held = false
  defined  : p.lost = false
  floor    : p.notBefore ≤ t

/-- The panel takes a frame that is sent and ends while it accepts commands. -/
theorem Panel.takeFrame_sending (c : Config) {p : Panel} {t : Nat} (r : Req) (h : p.Accepts t) :
    (p.sending t).takeFrame c r = match r.dataLines with
      | .quad =>
        if addrOpcode r.addr = 0x2C then (p.sending t).receivePixels c r.data
        else { p.sending t with fm := [], col := none, row := none }
      | .single => (p.sending t).receiveCommand c (addrOpcode r.addr) r.data := by
  obtain ⟨released, defined, floor⟩ := h
  exact if_neg (by simp [Panel.sending, released, defined, Nat.not_lt.2 floor])

/-- A command other than the sleep exit is received and starts no floor. -/
theorem Panel.receive_command (c : Config) {p : Panel} {t : Nat} {op : Byte} (ps : List Byte) (h : p.Accepts t)
    (awake : op ≠ c.opSlpout) :
    (p.sending t).receive c (commandReq c op ps) t = (p.sending t).receiveCommand c op ps := by
  simp [Panel.receive, Panel.sleepFloor, Panel.takeFrame_sending c _ h, commandReq, awake]

/-- A pixel write under 0x2C is received. -/
theorem Panel.receive_pixels (c : Config) {p : Panel} {t : Nat} (bytes : List Byte) (h : p.Accepts t)
    (opcode : c.opPixwr = 0x2C) :
    (p.sending t).receive c (colorReq c c.opPixwr bytes) t = (p.sending t).receivePixels c bytes := by
  have frame : (p.sending t).takeFrame c (colorReq c c.opPixwr bytes) = (p.sending t).receivePixels c bytes := by
    rw [Panel.takeFrame_sending c _ h]
    exact if_pos ((addrOpcode_append _).trans opcode)
  rw [Panel.receive, frame]
  exact if_neg fun quad => nomatch quad.1

/-- The bytes of an address set carry its start and its inclusive end. -/
theorem rangeOfBytes_sidePayload (a b : Half) : rangeOfBytes (sidePayload a b) = some (a, b - 1) := by
  simp [sidePayload, be16, rangeOfBytes]

/-- A completed column set leaves its columns; the panel goes on accepting commands. -/
theorem Panel.receive_caset (c : Config) {p : Panel} {t : Nat} (w : Window) (h : p.Accepts t)
    (awake : c.opCaset ≠ c.opSlpout) :
    ∃ q, (p.sending t).receive c (casetReq c w) t = q ∧ q.Accepts t ∧ q.col = some (w.x0, w.x1 - 1) ∧ q.fm = p.fm := by
  refine ⟨_, Panel.receive_command c _ h awake, ?_⟩
  rw [Panel.receiveCommand, if_pos rfl]
  exact ⟨⟨h.released, h.defined, h.floor⟩, rangeOfBytes_sidePayload _ _, rfl⟩

/-- A completed row set leaves its rows beside the columns; the panel goes on accepting commands. -/
theorem Panel.receive_raset (c : Config) {p : Panel} {t : Nat} (w : Window) (h : p.Accepts t)
    (awake : c.opRaset ≠ c.opSlpout) (distinct : c.opCaset ≠ c.opRaset) :
    ∃ q, (p.sending t).receive c (rasetReq c w) t = q ∧ q.Accepts t ∧ q.col = p.col ∧ q.row = some (w.y0, w.y1 - 1) ∧
      q.fm = p.fm := by
  refine ⟨_, Panel.receive_command c _ h awake, ?_⟩
  rw [Panel.receiveCommand, if_neg distinct.symm, if_pos rfl]
  exact ⟨⟨h.released, h.defined, h.floor⟩, rfl, rangeOfBytes_sidePayload _ _, rfl⟩

/-- The window of the ranges that its two address sets leave. -/
theorem windowOfRanges_sides (w : Window) : windowOfRanges (w.x0, w.x1 - 1) (w.y0, w.y1 - 1) = w := by
  simp [windowOfRanges]

/-- A pixel write that fills the window set before it puts the corrected pixels at its positions. -/
theorem Panel.receive_pixels_fm (c : Config) {p : Panel} {t : Nat} {w : Window} {px : List Half} (h : p.Accepts t)
    (opcode : c.opPixwr = 0x2C) (columns : p.col = some (w.x0, w.x1 - 1)) (rows : p.row = some (w.y0, w.y1 - 1))
    (fills : px.length = w.npix) :
    ((p.sending t).receive c (pixelReq c px) t).fm = placePixels c w 0 (px.map perm) p.fm := by
  rw [pixelReq, Panel.receive_pixels c _ h opcode, Panel.receivePixels,
    show (p.sending t).col = _ from columns, show (p.sending t).row = _ from rows]
  simp only [windowOfRanges_sides, pixelPayload_length, fills, if_pos, pixelsOfBytes_pixelPayload]
  rfl

/-- The panel after a FLUSH of window `w` and pixels `px` that goes well, all of it at time `t`. -/
def Panel.flushed (c : Config) (w : Window) (px : List Half) (t : Nat) (p : Panel) : Panel :=
  let columns := (p.sending t).receive c (casetReq c w) t
  let window := (columns.sending t).receive c (rasetReq c w) t
  (window.sending t).receive c (pixelReq c px) t

/-- Such a FLUSH puts its corrected pixels at the window's positions of a panel that accepts commands. -/
theorem Panel.flushed_fm (c : Config) {p : Panel} {t : Nat} {w : Window} {px : List Half} (h : p.Accepts t)
    (opcode : c.opPixwr = 0x2C) (distinct : c.opCaset ≠ c.opRaset) (caset_awake : c.opCaset ≠ c.opSlpout)
    (raset_awake : c.opRaset ≠ c.opSlpout) (fills : px.length = w.npix) :
    (p.flushed c w px t).fm = placePixels c w 0 (px.map perm) p.fm := by
  obtain ⟨q, hq, accepts, columns, same⟩ := Panel.receive_caset c w h caset_awake
  obtain ⟨q', hq', accepts', kept, rows, same'⟩ := Panel.receive_raset c w accepts raset_awake distinct
  rw [Panel.flushed, hq, hq', ← same, ← same']
  exact Panel.receive_pixels_fm c accepts' opcode (kept.trans columns) rows fills

end Machine
end Sys2Proof
end

section
/-! SUPPORT. A whole FLUSH under a cooperating environment, transaction by transaction (44_flush_pipeline.md R220,
20_memory.md R80), and the panel the observer sees after it. -/

namespace Sys2Proof.Machine

/-! ## Steps that the script names -/

/-- The state with another script before it. -/
def State.withMoves (ms : List Move) (s : State) : State := { s with moves := ms }

/-- The controller moves. -/
theorem step_block (ms : List Move) (s : State) : step (s.withMoves (.block :: ms)) = control (s.withMoves ms) := rfl

/-- The transport signals the end of the request in flight. -/
theorem step_complete {s : State} {r : Req} (c : Completion) (ms : List Move) (slot : s.inflight = some r)
    (quiet : s.completion = none) :
    step (s.withMoves (.complete c :: ms)) =
      .next ({ s with completion := some c, panel := Panel.settle s.cfg s.panel r c s.now }.withMoves ms) := by
  simp [step, environment, State.withMoves, slot, quiet]

/-- One step, as a run. -/
theorem run_one {s t : State} (h : step s = .next t) : run 1 s = .next t := run_succ h 0

/-- The runs of two parts of a script, one after the other. -/
theorem run_trans {s t u : State} {m n : Nat} (h : run m s = .next t) (h' : run n t = .next u) :
    run (m + n) s = .next u :=
  (run_add h n).trans h'

/-! ## One transaction -/

/-- The state after a transaction of `r` that is accepted and completes at once, before its invoker goes on. -/
def State.carried (r : Req) (s : State) : State :=
  { s with
    inflight := none
    completion := none
    phase := s.phase.waitPhase
    panel := (s.panel.sending s.now).receive s.cfg r s.now
    trace := .completed r .done s.now :: .submitted r .accepted s.now :: s.trace }

section carried
variable (r : Req) (s : State)
@[simp] theorem State.carried_cfg : (s.carried r).cfg = s.cfg := rfl
@[simp] theorem State.carried_handle : (s.carried r).handle = s.handle := rfl
@[simp] theorem State.carried_inflight : (s.carried r).inflight = none := rfl
@[simp] theorem State.carried_completion : (s.carried r).completion = none := rfl
@[simp] theorem State.carried_submitAns : (s.carried r).submitAns = s.submitAns := rfl
@[simp] theorem State.carried_allocAns : (s.carried r).allocAns = s.allocAns := rfl
@[simp] theorem State.carried_win : (s.carried r).win = s.win := rfl
@[simp] theorem State.carried_src : (s.carried r).src = s.src := rfl
@[simp] theorem State.carried_allocs : (s.carried r).allocs = s.allocs := rfl
end carried

/-- Issue step, completion, wait step. `u` is the state that submits `r`; `f` is what its invoker does after a good
completion. -/
theorem run_transaction {s u : State} {op : Byte} {r : Req} {f : State → State}
    (issue : ∀ ms, control (s.withMoves ms) = .next ((u.withMoves ms).submit op r))
    (accepting : u.submitAns = .accepted) (quiet : u.completion = none)
    (wait : ∀ v : State, v.phase = u.phase.waitPhase → v.inflight = some r → v.completion = some .done →
      control v = .next (f (v.received r .done))) (ms : List Move) :
    run 3 (s.withMoves (.block :: .complete .done :: .block :: ms)) = .next (f ((u.carried r).withMoves ms)) := by
  have sent : control (s.withMoves (.complete .done :: .block :: ms)) =
      .next ((u.sent u.hdr r).withMoves (.complete .done :: .block :: ms)) :=
    (issue _).trans (congrArg _ (State.submit_accepted op r accepting))
  refine run_trans (m := 1) (n := 2) (run_one ((step_block _ s).trans sent)) ?_
  refine run_trans (m := 1) (n := 1) (run_one (step_complete .done _ rfl quiet)) (run_one ?_)
  exact (step_block ms _).trans (wait _ rfl rfl rfl)

/-- An address set's issue step, by its side (42_address_window.md R190). -/
theorem control_fCasetIssue {s : State} (at_phase : s.phase = .fCasetIssue) (side : s.win.x0.toNat < s.win.x1.toNat)
    (attached : s.handle ≠ none) (free : s.inflight = none) :
    control s = .next
      ((s.loaded s.cfg.opCaset (sidePayload s.win.x0 s.win.x1)).submit s.cfg.opCaset (casetReq s.cfg s.win)) := by
  simp only [control, State.fetch, at_phase, exec, execCaset]
  exact addressSet_next.2 ⟨side, at_phase, attached, free, rfl⟩

theorem control_fRasetIssue {s : State} (at_phase : s.phase = .fRasetIssue) (side : s.win.y0.toNat < s.win.y1.toNat)
    (attached : s.handle ≠ none) (free : s.inflight = none) :
    control s = .next
      ((s.loaded s.cfg.opRaset (sidePayload s.win.y0 s.win.y1)).submit s.cfg.opRaset (rasetReq s.cfg s.win)) := by
  simp only [control, State.fetch, at_phase, exec, execRaset]
  exact addressSet_next.2 ⟨side, at_phase, attached, free, rfl⟩

/-- The pixel write's issue step, under either opcode (44_flush_pipeline.md R227). -/
theorem control_fPixIssue {s : State} {b : Scratch} (at_phase : s.phase = .fPixIssue) (held : s.scratch = some b)
    (some_bytes : b.payload ≠ []) (even : b.payload.length % 2 = 0)
    (opcode : s.cfg.opPixwr = 0x2C ∨ s.cfg.opPixwr = 0x3C) (attached : s.handle ≠ none) (free : s.inflight = none) :
    control s = .next
      ((s.headed s.cfg.opPixwr).submit s.cfg.opPixwr (colorReq s.cfg s.cfg.opPixwr b.payload)) := by
  have write : inPhase .fPixIssue s (pixelWrite s.cfg.opPixwr b.payload) = .next _ :=
    inPhase_next.2 ⟨at_phase, pixelWrite_next.2 ⟨⟨some_bytes, even⟩, rfl, attached, free, rfl⟩⟩
  simp only [control, State.fetch, at_phase, held]
  rcases opcode with h | h
  · rw [if_neg (by simp [h]), exec, execRamwr, ← h]; exact write
  · rw [if_pos h, exec, execRamwrc, ← h]; exact write

/-- A good completion of an address set: on to `p`. -/
theorem stepAddressWait_done {s : State} {r : Req} (p : Phase) (slot : s.inflight = some r)
    (signal : s.completion = some .done) : stepAddressWait p s = .next ((s.received r .done).goto p) :=
  awaitDone_next.2 (.inr ⟨.done, r, signal, slot, rfl⟩)

theorem control_fCasetWait {s : State} {r : Req} (at_phase : s.phase = .fCasetWait) (slot : s.inflight = some r)
    (signal : s.completion = some .done) : control s = .next ((s.received r .done).goto .fRasetIssue) := by
  simp only [control, State.fetch, State.proceed, at_phase]
  exact stepAddressWait_done _ slot signal

theorem control_fRasetWait {s : State} {r : Req} (at_phase : s.phase = .fRasetWait) (slot : s.inflight = some r)
    (signal : s.completion = some .done) : control s = .next ((s.received r .done).goto .fAlloc) := by
  simp only [control, State.fetch, State.proceed, at_phase]
  exact stepAddressWait_done _ slot signal

theorem control_fPixWait {s : State} {r : Req} (at_phase : s.phase = .fPixWait) (slot : s.inflight = some r)
    (signal : s.completion = some .done) : control s = .next (s.received r .done).returnOk := by
  simp only [control, State.fetch, State.proceed, at_phase]
  exact awaitDone_next.2 (.inr ⟨.done, r, signal, slot, rfl⟩)

/-! ## Correction of the whole buffer -/

/-- The state in which `k` of the source pixels `px` have been corrected into the scratch buffer `b`. -/
def State.corrected (px : List Half) (b : Scratch) (k : Nat) (s : State) : State :=
  { s with
    px := (px.take k).getLast?.getD s.px
    scratch := some (b.write 0 (pixelPayload s.cfg.pixOrder (px.take k)))
    pcount := k }

/-- Writing a list in two parts. -/
theorem Memory.writeList_append {α : Type} (m : Memory α) (a : Nat) (l l' : List α) :
    Memory.writeList m a (l ++ l') = Memory.writeList (Memory.writeList m a l) (a + l.length) l' := by
  induction l generalizing m a with
  | nil => rfl
  | cons v l ih => simp only [List.cons_append, Memory.writeList, ih, List.length_cons, Nat.add_assoc, Nat.add_comm 1]

/-- Writing the next pixel in its place goes on with the payload. -/
theorem Scratch.write_next_pixel (b : Scratch) (o : PixOrder) {px : List Half} {k : Nat} {v : Half}
    (hv : px[k]? = some v) :
    (b.write 0 (pixelPayload o (px.take k))).write (2 * k) (pixelBytes o (perm v)) =
      b.write 0 (pixelPayload o (px.take (k + 1))) := by
  obtain ⟨hk, rfl⟩ := List.getElem?_eq_some_iff.1 hv
  have place : 2 * k = 0 + (pixelPayload o (px.take k)).length := by
    rw [pixelPayload_length, List.length_take_of_le (Nat.le_of_lt hk), Nat.zero_add]
  rw [List.take_succ_eq_append_getElem hk, pixelPayload_append, Scratch.write, Scratch.write, Scratch.write,
    Memory.writeList_append, place]
  simp [pixelPayload]

/-- One correction step (43_color_permutation.md R210). -/
theorem control_corrected {s : State} {px : List Half} {b : Scratch} {k : Nat} (at_phase : s.phase = .fPerm)
    (source : s.src = some px) (size : b.size = 2 * px.length) (npix : px.length = s.win.npix) (hk : k < px.length) :
    control (s.corrected px b k) = .next (s.corrected px b (k + 1)) := by
  have hv : px[k]? = some px[k] := List.getElem?_eq_getElem hk
  have last : (px.take (k + 1)).getLast?.getD s.px = px[k] := by
    rw [List.take_succ_eq_append_getElem hk, List.getLast?_concat, Option.getD_some]
  have more : ¬ s.win.npix ≤ k := by omega
  have room : ¬ b.size < 2 * k + 2 := by omega
  simp only [control, State.fetch, State.proceed, State.corrected, at_phase, stepPerm, State.srcRead, source, hv, more,
    if_false]
  rw [if_neg (show ¬ (b.write _ _).size < _ from room), Scratch.write_next_pixel b _ hv, last]

/-- Correction of the first `k` pixels, one a step. -/
theorem run_corrected {s : State} {px : List Half} {b : Scratch} (at_phase : s.phase = .fPerm)
    (source : s.src = some px) (size : b.size = 2 * px.length) (npix : px.length = s.win.npix) (k : Nat)
    (hk : k ≤ px.length) (ms : List Move) :
    run k ((s.corrected px b 0).withMoves (List.replicate k .block ++ ms)) =
      .next ((s.corrected px b k).withMoves ms) := by
  induction k generalizing ms with
  | zero => rfl
  | succ k ih =>
    have before := ih (Nat.le_of_succ_le hk) (.block :: ms)
    rw [List.replicate_succ', List.append_assoc]
    refine run_trans before (run_one ?_)
    exact (step_block ms _).trans (control_corrected (s := s.withMoves ms) at_phase source size npix hk)

/-! ## FLUSH, phase by phase -/

/-- A handle, an empty slot and a transport that accepts: a transaction can be issued and carried out. -/
structure State.Cooperating (s : State) : Prop where
  attached  : s.handle ≠ none
  free      : s.inflight = none
  quiet     : s.completion = none
  accepting : s.submitAns = .accepted

/-- A command write of `op` and `ps` carried out, its invoker then at `p`. -/
def State.commanded (op : Byte) (ps : List Byte) (p : Phase) (s : State) : State :=
  ((s.loaded op ps).carried (commandReq s.cfg op ps)).goto p

/-- The column set carried out (42_address_window.md R193). -/
abbrev State.columnsSet (s : State) : State :=
  s.commanded s.cfg.opCaset (sidePayload s.win.x0 s.win.x1) .fRasetIssue

/-- The row set carried out (42_address_window.md R194). -/
abbrev State.rowsSet (s : State) : State :=
  s.commanded s.cfg.opRaset (sidePayload s.win.y0 s.win.y1) .fAlloc

/-- The pixel write carried out, and the return (44_flush_pipeline.md R227, R228). -/
def State.pixelsSent (px : List Half) (s : State) : State :=
  ((s.headed s.cfg.opPixwr).carried (pixelReq s.cfg px)).returnOk

/-- The allocation of the scratch buffer, granted (44_flush_pipeline.md R225). -/
def State.allocated (s : State) : State :=
  { s.log (.allocated (2 * s.win.npix) .ok) with
    scratch := some ⟨2 * s.win.npix, s.allocs, []⟩, allocs := s.allocs + 1, pcount := 0 }.goto .fPerm

/-- The whole source corrected into the scratch buffer `b` (44_flush_pipeline.md R226). -/
def State.permuted (px : List Half) (b : Scratch) (s : State) : State :=
  (s.corrected px b px.length).goto .fPixIssue

/-! What the later phases need of the state after each. -/

section commanded
variable (op : Byte) (ps : List Byte) (p : Phase) (s : State)
@[simp] theorem State.commanded_phase : (s.commanded op ps p).phase = p := rfl
@[simp] theorem State.commanded_cfg : (s.commanded op ps p).cfg = s.cfg := by
  simp [State.commanded, State.loaded]
@[simp] theorem State.commanded_win : (s.commanded op ps p).win = s.win := by
  simp [State.commanded, State.loaded]
@[simp] theorem State.commanded_src : (s.commanded op ps p).src = s.src := by
  simp [State.commanded, State.loaded]
@[simp] theorem State.commanded_allocAns : (s.commanded op ps p).allocAns = s.allocAns := by
  simp [State.commanded, State.loaded]
@[simp] theorem State.commanded_allocs : (s.commanded op ps p).allocs = s.allocs := by
  simp [State.commanded, State.loaded]

theorem State.Cooperating.commanded {s : State} (h : s.Cooperating) : (s.commanded op ps p).Cooperating :=
  ⟨by simpa [State.commanded] using h.attached, rfl, rfl, by simpa [State.commanded, State.loaded] using h.accepting⟩
end commanded

section allocated
variable (s : State)
@[simp] theorem State.allocated_phase : s.allocated.phase = .fPerm := by simp [State.allocated]
@[simp] theorem State.allocated_pcount : s.allocated.pcount = 0 := by simp [State.allocated]
@[simp] theorem State.allocated_scratch :
    s.allocated.scratch = some ⟨2 * s.win.npix, s.allocs, []⟩ := by simp [State.allocated]
@[simp] theorem State.allocated_cfg : s.allocated.cfg = s.cfg := by simp [State.allocated]
@[simp] theorem State.allocated_win : s.allocated.win = s.win := by simp [State.allocated]
@[simp] theorem State.allocated_src : s.allocated.src = s.src := by simp [State.allocated]

theorem State.Cooperating.allocated {s : State} (h : s.Cooperating) : s.allocated.Cooperating :=
  ⟨h.attached, h.free, h.quiet, h.accepting⟩
end allocated

section permuted
variable (px : List Half) (b : Scratch) (s : State)
@[simp] theorem State.permuted_phase : (s.permuted px b).phase = .fPixIssue := rfl
@[simp] theorem State.permuted_scratch :
    (s.permuted px b).scratch = some (b.write 0 (pixelPayload s.cfg.pixOrder (px.take px.length))) := rfl
@[simp] theorem State.permuted_cfg : (s.permuted px b).cfg = s.cfg := rfl

theorem State.Cooperating.permuted {s : State} (h : s.Cooperating) : (s.permuted px b).Cooperating :=
  ⟨h.attached, h.free, h.quiet, h.accepting⟩
end permuted

/-! Each phase, as a run of its part of the script. -/

/-- SETWIN's column set, from its issue to the issue of the row set. -/
theorem run_caset {s : State} (h : s.Cooperating) (at_phase : s.phase = .fCasetIssue)
    (side : s.win.x0.toNat < s.win.x1.toNat) (ms : List Move) :
    run 3 (s.withMoves (.block :: .complete .done :: .block :: ms)) = .next (s.columnsSet.withMoves ms) :=
  run_transaction (op := s.cfg.opCaset) (u := s.loaded s.cfg.opCaset (sidePayload s.win.x0 s.win.x1))
    (f := State.goto .fRasetIssue)
    (fun ms => control_fCasetIssue (s := s.withMoves ms) at_phase side h.attached h.free) h.accepting h.quiet
    (fun _ hv => control_fCasetWait (hv.trans (congrArg _ at_phase))) ms

/-- SETWIN's row set, from its issue to the allocation. -/
theorem run_raset {s : State} (h : s.Cooperating) (at_phase : s.phase = .fRasetIssue)
    (side : s.win.y0.toNat < s.win.y1.toNat) (ms : List Move) :
    run 3 (s.withMoves (.block :: .complete .done :: .block :: ms)) = .next (s.rowsSet.withMoves ms) :=
  run_transaction (op := s.cfg.opRaset) (u := s.loaded s.cfg.opRaset (sidePayload s.win.y0 s.win.y1))
    (f := State.goto .fAlloc)
    (fun ms => control_fRasetIssue (s := s.withMoves ms) at_phase side h.attached h.free) h.accepting h.quiet
    (fun _ hv => control_fRasetWait (hv.trans (congrArg _ at_phase))) ms

/-- The pixel write, from its issue to the return. -/
theorem run_pixels {s : State} {px : List Half} {b : Scratch} (h : s.Cooperating) (at_phase : s.phase = .fPixIssue)
    (held : s.scratch = some b) (payload : b.payload = pixelPayload s.cfg.pixOrder px) (some_pixels : px ≠ [])
    (opcode : s.cfg.opPixwr = 0x2C ∨ s.cfg.opPixwr = 0x3C) (ms : List Move) :
    run 3 (s.withMoves (.block :: .complete .done :: .block :: ms)) = .next ((s.withMoves ms).pixelsSent px) := by
  have length : b.payload.length = 2 * px.length := by rw [payload, pixelPayload_length]
  have some_bytes : b.payload ≠ [] := by
    have := List.length_pos_iff.2 some_pixels
    exact List.ne_nil_of_length_pos (by omega)
  have ran := run_transaction (s := s) (u := s.headed s.cfg.opPixwr) (op := s.cfg.opPixwr)
    (r := colorReq s.cfg s.cfg.opPixwr b.payload) (f := State.returnOk)
    (fun ms => control_fPixIssue (s := s.withMoves ms) at_phase held some_bytes (by omega) opcode h.attached h.free)
    h.accepting h.quiet (fun _ hv => control_fPixWait (hv.trans (congrArg _ at_phase))) ms
  rw [ran, payload]
  rfl

/-- The allocation's step. -/
theorem run_alloc {s : State} (at_phase : s.phase = .fAlloc) (granting : s.allocAns = .ok) (ms : List Move) :
    run 1 (s.withMoves (.block :: ms)) = .next (s.allocated.withMoves ms) := by
  refine run_one ((step_block ms s).trans ?_)
  simp [control, State.fetch, State.proceed, State.withMoves, at_phase, stepAlloc, granting, State.allocated, State.log,
    State.goto]

/-- PERMBUF, from an empty scratch buffer to the issue of the pixel write (44_flush_pipeline.md R226). -/
theorem run_perm {s : State} {px : List Half} {b : Scratch} (at_phase : s.phase = .fPerm) (source : s.src = some px)
    (held : s.scratch = some b) (start : s.pcount = 0) (size : b.size = 2 * px.length) (npix : px.length = s.win.npix)
    (ms : List Move) :
    run (px.length + 1) (s.withMoves (List.replicate (px.length + 1) .block ++ ms)) =
      .next ((s.permuted px b).withMoves ms) := by
  have none_yet : s.corrected px b 0 = s := calc
    s.corrected px b 0 = { s with scratch := some b, pcount := 0 } := rfl
    _ = s := by rw [← held, ← start]
  have all := run_corrected at_phase source size npix px.length (Nat.le_refl _) (.block :: ms)
  rw [none_yet] at all
  rw [List.replicate_succ', List.append_assoc]
  refine run_trans all (run_one ((step_block ms _).trans ?_))
  simp [control, State.fetch, State.proceed, State.withMoves, State.permuted, State.corrected, at_phase, stepPerm, npix,
    State.goto]

/-! ## The whole FLUSH -/

/-- `IDLE` with a cooperating environment for a whole FLUSH of window `w` and pixels `px`, which it can perform. -/
structure State.FlushReady (w : Window) (px : List Half) (rest : List Move) (s : State) : Prop where
  idle     : s.phase = .idle
  together : s.Cooperating
  granting : s.allocAns = .ok
  wf       : s.cfg.wf = true
  valid    : windowCause s.cfg w px = none
  fits     : 2 * px.length ≤ s.cfg.maxXferBytes
  script   : s.moves = flushScript px.length ++ rest

/-- FLUSH accepted and validated (44_flush_pipeline.md R220). -/
def State.flushStarted (w : Window) (px : List Half) (s : State) : State :=
  { s.accept (flushOp w (some px)) with win := w, src := some px, pcount := 0 }.goto .fCasetIssue

section flushStarted
variable (w : Window) (px : List Half) (s : State)
@[simp] theorem State.flushStarted_phase : (s.flushStarted w px).phase = .fCasetIssue := rfl
@[simp] theorem State.flushStarted_win : (s.flushStarted w px).win = w := rfl
@[simp] theorem State.flushStarted_src : (s.flushStarted w px).src = some px := rfl
@[simp] theorem State.flushStarted_cfg : (s.flushStarted w px).cfg = s.cfg := rfl
@[simp] theorem State.flushStarted_allocAns : (s.flushStarted w px).allocAns = s.allocAns := rfl
@[simp] theorem State.flushStarted_allocs : (s.flushStarted w px).allocs = s.allocs := rfl

theorem State.Cooperating.flushStarted {s : State} (h : s.Cooperating) : (s.flushStarted w px).Cooperating :=
  ⟨h.attached, h.free, h.quiet, h.accepting⟩
end flushStarted

/-- With a handle, the cause of a FLUSH is that of its window and buffer. -/
theorem flushCause_of_handle {s : State} (w : Window) (px : List Half) (attached : s.handle ≠ none) :
    flushCause s w (some px) = windowCause s.cfg w px := by
  obtain ⟨h, hh⟩ := Option.ne_none_iff_exists'.1 attached
  simp [flushCause, hh, windowCause]

/-- The acceptance of such a FLUSH. -/
theorem State.FlushReady.exec_flush {w : Window} {px : List Half} {rest : List Move} {s : State}
    (h : s.FlushReady w px rest) : exec (flushOp w (some px)) s = .next (s.flushStarted w px) := by
  have npix := (windowCause_eq_none.1 h.valid).2.2
  have cause := (flushCause_of_handle w px h.together.attached).trans h.valid
  have fits : ¬ s.cfg.maxXferBytes < 2 * w.npix := by rw [← npix]; exact Nat.not_lt.2 h.fits
  simp [flushOp, exec, execFlush, h.idle, cause, fits, State.flushStarted]

/-- The state after that FLUSH: every field that it leaves alone is that of `s`. -/
def State.flushed (w : Window) (px : List Half) (rest : List Move) (s : State) : State :=
  { s with
    phase := .idle
    result := .ok
    valid := true
    win := w
    src := some px
    hdr := frameHeader s.cfg.markerPix s.cfg.opPixwr
    pbuf := sidePayload w.y0 w.y1 ++ s.pbuf.drop 4
    plen := 4
    px := px.getLast?.getD s.px
    pcount := px.length
    scratch := none
    inflight := none
    completion := none
    hostPort := none
    allocs := s.allocs + 1
    panel := s.panel.flushed s.cfg w px s.now
    moves := rest
    trace := (flushEvents s.cfg w px s.now).reverse ++ s.trace }

/-- The script of a FLUSH: two address sets, the allocation, the correction, the pixel write. -/
theorem flushScript_append (n : Nat) (rest : List Move) :
    flushScript n ++ rest =
      .block :: .complete .done :: .block :: .block :: .complete .done :: .block :: .block ::
        (List.replicate (n + 1) .block ++ (.block :: .complete .done :: .block :: rest)) := by
  simp [flushScript]

/-- The length of that script, part by part. -/
theorem flushScript_length (n : Nat) : (flushScript n).length = 3 + (3 + (1 + (n + 1 + 3))) := by
  simp [flushScript]; omega

/-- The scratch buffer that the correction of the whole source leaves is its payload. -/
theorem corrected_payload {o : PixOrder} {px : List Half} {n k : Nat} (size : n = 2 * px.length) :
    (Scratch.write ⟨n, k, []⟩ 0 (pixelPayload o (px.take px.length))).payload = pixelPayload o px := by
  rw [List.take_length]
  refine Scratch.payload_eq (size.trans (pixelPayload_length o px).symm) fun i => ?_
  simp only [Scratch.write, Memory.read_writeList, Nat.zero_le, true_and, Nat.zero_add, Nat.sub_zero]
  split
  · rfl
  · rename_i h
    exact (List.getElem?_eq_none (Nat.not_lt.1 h)).symm

/-- The phases of that FLUSH, one after the other, give the state described. -/
theorem State.flushed_eq (w : Window) (px : List Half) (rest : List Move) (s : State) :
    (((s.flushStarted w px).columnsSet.rowsSet.allocated.permuted px ⟨2 * w.npix, s.allocs, []⟩).withMoves
      rest).pixelsSent px = s.flushed w px rest := by
  simp only [State.flushed, State.pixelsSent, State.returnOk, State.finish, State.free, State.permuted, State.corrected,
    State.allocated, State.commanded, State.flushStarted, State.withMoves, State.loaded,
    State.loadParams, State.headed, State.carried, State.goto, State.log, State.accept, List.take_length]
  rfl

/-- A configuration of this block writes pixels under 0x2C or 0x3C (00_scope.md R10). -/
theorem Config.opPixwr_of_wf {c : Config} (h : c.wf = true) : c.opPixwr = 0x2C ∨ c.opPixwr = 0x3C := by
  simp only [Config.wf, Config.paramsOk, Bool.and_eq_true, decide_eq_true_eq] at h
  tauto

/-- A FLUSH under a cooperating environment runs to its return. -/
theorem State.FlushReady.run_flush {w : Window} {px : List Half} {rest : List Move} {s : State}
    (h : s.FlushReady w px rest) :
    run (flushScript px.length).length (s.flushStarted w px) = .next (s.flushed w px rest) := by
  obtain ⟨⟨columns, rows⟩, -, npix⟩ := windowCause_eq_none.1 h.valid
  have some_pixels : 0 < px.length := by
    rw [npix]
    exact Nat.mul_pos (Nat.sub_pos_of_lt columns) (Nat.sub_pos_of_lt rows)
  have payload := corrected_payload (o := s.cfg.pixOrder) (k := s.allocs) (congrArg (2 * ·) npix.symm)
  have at_columns := h.together.flushStarted w px
  have at_rows : (s.flushStarted w px).columnsSet.Cooperating := at_columns.commanded _ _ _
  have at_alloc : (s.flushStarted w px).columnsSet.rowsSet.Cooperating := at_rows.commanded _ _ _
  have at_pixels := at_alloc.allocated.permuted px ⟨2 * w.npix, s.allocs, []⟩
  have start : s.flushStarted w px = (s.flushStarted w px).withMoves (flushScript px.length ++ rest) := by
    rw [← h.script]; rfl
  have ran_columns := run_caset at_columns rfl columns
  have ran_rows := run_raset at_rows (by simp) (by simpa)
  have ran_alloc := run_alloc (s := (s.flushStarted w px).columnsSet.rowsSet) (by simp) (by simpa using h.granting)
  have ran_perm := run_perm (s := (s.flushStarted w px).columnsSet.rowsSet.allocated) (px := px)
    (b := ⟨2 * w.npix, s.allocs, []⟩) (by simp) (by simp) (by simp) (by simp) (by simp [npix]) (by simp [npix])
  have ran_pixels := run_pixels (px := px) at_pixels (by simp) (State.permuted_scratch ..) (by simpa using payload)
    (List.ne_nil_of_length_pos some_pixels) (by simpa using Config.opPixwr_of_wf h.wf)
  rw [start, flushScript_append, flushScript_length, run_add (ran_columns _), run_add (ran_rows _),
    run_add (ran_alloc _), run_add (ran_perm _), ran_pixels, State.flushed_eq]

/-- Settles O45: the FLUSH runs to the state described, whose panel took the two address sets and the pixel write; the
pixels placed in the window are read back, and no other place of the panel has an address among theirs. -/
theorem flushLandsPixels : Obligations.FlushLandsPixels := by
  intro s w px rest idle attached free quiet _ accepting granting wf valid fits script _ released defined floor opcode
    distinct caset_awake raset_awake
  have ready : s.FlushReady w px rest := ⟨idle, ⟨attached, free, quiet, accepting⟩, granting, wf, valid, fits, script⟩
  obtain ⟨-, ⟨inside, -⟩, npix⟩ := windowCause_eq_none.1 valid
  have fm : (s.flushed w px rest).panel.fm = placePixels s.cfg w 0 (px.map perm) s.panel.fm :=
    Panel.flushed_fm s.cfg ⟨released, defined, floor⟩ opcode distinct caset_awake raset_awake npix
  have fills : (px.map perm).length = w.npix := by rw [List.length_map, npix]
  refine ⟨_, _, ready.exec_flush, ready.run_flush, fun k v hv => ?_, fun x y hx outside => ?_⟩
  · rw [fm]
    exact read_placePixels_inside _ inside fills (by simp [hv])
  · rw [fm]
    exact read_placePixels_outside _ inside fills hx outside

end Sys2Proof.Machine
end

section
/-! SUPPORT. The frame decoder: what each of its functions accepts, and what it answers to a frame that the block never
sends (30_encoding.md R101 to R103, R113, R120). -/

namespace Sys2Proof

/-! ## What the decoder accepts -/

/-- The bytes of a side give back its start and its inclusive end. -/
theorem sidePayload_ofBe16 (a b e f : Byte) : sidePayload (ofBe16 a b) (ofBe16 e f + 1) = [a, b, e, f] := by
  simp [sidePayload, be16]

/-- An address set is decoded only from the bytes of a side of positive extent. -/
theorem decodeSide_ok {mk : Half → Half → Instr} {data : List Byte} {i : Instr} (h : decodeSide mk data = .ok i) :
    ∃ start stop : Half, start.toNat < stop.toNat ∧ data = sidePayload start stop ∧ i = mk start stop := by
  unfold decodeSide at h
  split at h
  next a b e f =>
    split at h
    · cases h
    · rename_i in_range
      split at h
      · cases h
      · rename_i ordered
        cases h
        have extent : (ofBe16 a b).toNat < (ofBe16 e f + 1).toNat := by bv_omega
        exact ⟨_, _, extent, (sidePayload_ofBe16 a b e f).symm, rfl⟩
  · cases h

/-- A class-CMD frame is decoded as an operation that is sent as that frame. -/
theorem decodeCommand_ok {c : Config} {op : Byte} {data : List Byte} {i : Instr} (h : decodeCommand c op data = .ok i) :
    encode c i = .frame (frameBytes c.markerCmd op data) ∧ i.wf = true := by
  unfold decodeCommand at h
  split at h
  · cases h
  · rename_i fits
    have short : decide (data.length ≤ maxParams) = true := decide_eq_true (Nat.not_lt.1 fits)
    split at h
    next caset =>
      obtain ⟨start, stop, extent, rfl, rfl⟩ := decodeSide_ok h
      exact ⟨by rw [caset]; rfl, decide_eq_true extent⟩
    split at h
    next raset =>
      obtain ⟨start, stop, extent, rfl, rfl⟩ := decodeSide_ok h
      exact ⟨by rw [raset]; rfl, decide_eq_true extent⟩
    repeat' split at h
    all_goals
      cases h
      exact ⟨by simp only [encode, *], short⟩

/-- A class-PIX frame is decoded only with whole pixels and under the configured opcode, as the color write of that
opcode. -/
theorem decodePixel_ok {c : Config} {op : Byte} {data : List Byte} {i : Instr} (h : decodePixel c op data = .ok i) :
    (data ≠ [] ∧ data.length % 2 = 0) ∧ op = c.opPixwr ∧ (op = 0x2C ∧ i = .ramwr data ∨ op = 0x3C ∧ i = .ramwrc data) := by
  unfold decodePixel at h
  split at h
  · cases h
  · rename_i whole
    split at h
    · cases h
    · rename_i opcode
      refine ⟨by tauto, not_not.1 opcode, ?_⟩
      split at h
      next ramwr => cases h; exact .inl ⟨ramwr, rfl⟩
      split at h
      next ramwrc => cases h; exact .inr ⟨ramwrc, rfl⟩
      · cases h

/-- A frame of class CMD, by its opcode. -/
theorem decodeFrame_command (c : Config) (op : Byte) (data : List Byte) :
    decodeFrame c (frameBytes c.markerCmd op data) = decodeCommand c op data := by
  simp [decodeFrame, frameBytes]

/-- A frame of class PIX, by its opcode. -/
theorem decodeFrame_pixel {c : Config} (markers : c.markerPix ≠ c.markerCmd) (op : Byte) (data : List Byte) :
    decodeFrame c (frameBytes c.markerPix op data) = decodePixel c op data := by
  simp [decodeFrame, frameBytes, markers]

/-- What is decoded is a frame of one of the two classes. -/
theorem decodeFrame_ok {c : Config} {bytes : List Byte} {i : Instr} (h : decodeFrame c bytes = .ok i) :
    ∃ op data, (bytes = frameBytes c.markerCmd op data ∧ decodeCommand c op data = .ok i) ∨
      (bytes = frameBytes c.markerPix op data ∧ decodePixel c op data = .ok i) := by
  unfold decodeFrame at h
  split at h
  next m a op b data =>
    split at h
    · cases h
    · rename_i marker
      split at h
      · cases h
      · rename_i address
        obtain ⟨rfl, rfl⟩ : a = 0 ∧ b = 0 := by tauto
        split at h
        next command => exact ⟨op, data, .inl ⟨by rw [command]; rfl, h⟩⟩
        next other =>
          obtain rfl : m = c.markerPix := by tauto
          exact ⟨op, data, .inr ⟨rfl, h⟩⟩
  · cases h

/-- Settles O3: a frame is of class CMD or of class PIX, and each class decodes to operations sent as that frame. -/
theorem encodeOfDecode : Obligations.EncodeOfDecode := by
  intro c bytes i h
  obtain ⟨op, data, ⟨rfl, hc⟩ | ⟨rfl, hp⟩⟩ := decodeFrame_ok h
  · exact decodeCommand_ok hc
  · obtain ⟨whole, -, ⟨rfl, rfl⟩ | ⟨rfl, rfl⟩⟩ := decodePixel_ok hp
    · exact ⟨rfl, decide_eq_true whole⟩
    · exact ⟨rfl, decide_eq_true whole⟩

/-! ## What the decoder rejects -/

/-- A marker of neither class. -/
theorem decodeFrame_unknownMarker {c : Config} {m : Byte} (a op b : Byte) (data : List Byte) (command : m ≠ c.markerCmd)
    (pixel : m ≠ c.markerPix) : decodeFrame c (m :: a :: op :: b :: data) = .error .unknownMarker :=
  if_pos ⟨command, pixel⟩

/-- An address with a bit outside 15:8. -/
theorem decodeFrame_addressBits {c : Config} {m a b : Byte} (op : Byte) (data : List Byte)
    (marker : m = c.markerCmd ∨ m = c.markerPix) (outside : a ≠ 0 ∨ b ≠ 0) :
    decodeFrame c (m :: a :: op :: b :: data) = .error .addressBits := by
  have known : ¬ (m ≠ c.markerCmd ∧ m ≠ c.markerPix) := by tauto
  rw [decodeFrame, if_neg known, if_pos outside]

/-- Fewer bytes than a header has. -/
theorem decodeFrame_shortHeader (c : Config) {bytes : List Byte} (short : bytes.length < 4) :
    decodeFrame c bytes = .error .shortHeader := by
  unfold decodeFrame
  split
  · simp only [List.length_cons] at short; omega
  · rfl

/-- More data than the parameter buffer holds. -/
theorem decodeCommand_tooManyParams (c : Config) (op : Byte) {data : List Byte} (long : maxParams < data.length) :
    decodeCommand c op data = .error .tooManyParams :=
  if_pos long

/-- An address set of other than four bytes. -/
theorem decodeSide_addressSetLength (mk : Half → Half → Instr) {data : List Byte} (length : data.length ≠ 4) :
    decodeSide mk data = .error .addressSetLength := by
  unfold decodeSide
  split
  · exact absurd rfl length
  · rfl

/-- A frame with the opcode of an address set and other than four bytes. -/
theorem decodeCommand_addressSetLength {c : Config} {op : Byte} {data : List Byte}
    (side : op = c.opCaset ∨ op = c.opRaset) (fits : data.length ≤ maxParams) (length : data.length ≠ 4) :
    decodeCommand c op data = .error .addressSetLength := by
  rw [decodeCommand, if_neg (Nat.not_lt.2 fits)]
  split
  · exact decodeSide_addressSetLength _ length
  · rw [if_pos (by tauto)]
    exact decodeSide_addressSetLength _ length

/-- A payload that is not of whole pixels. -/
theorem decodePixel_pixelLength (c : Config) (op : Byte) {data : List Byte} (partly : data = [] ∨ data.length % 2 = 1) :
    decodePixel c op data = .error .pixelLength :=
  if_pos (partly.imp_right fun odd => by omega)

/-- A pixel write under an opcode other than the configured one. -/
theorem decodePixel_pixelOpcode {c : Config} {op : Byte} {data : List Byte} (whole : data ≠ [] ∧ data.length % 2 = 0)
    (other : op ≠ c.opPixwr) : decodePixel c op data = .error .pixelOpcode := by
  rw [decodePixel, if_neg (by tauto), if_pos other]

/-- A configuration of this block tells the classes apart by their markers (00_scope.md R10). -/
theorem Config.markers_of_wf {c : Config} (h : c.wf = true) : c.markerPix ≠ c.markerCmd := by
  simp only [Config.wf, Config.paramsOk, Bool.and_eq_true, decide_eq_true_eq] at h
  tauto

/-- The data of a class-CMD frame that is decoded are at most 36 bytes, and four for an address set: it would be rejected
otherwise. -/
theorem length_of_decodeCommand {c : Config} {op : Byte} {data : List Byte} {i : Instr}
    (h : decodeCommand c op data = .ok i) :
    data.length ≤ maxParams ∧ (op = c.opCaset ∨ op = c.opRaset → data.length = 4) := by
  have fits : data.length ≤ maxParams := by
    by_contra long
    simp [decodeCommand_tooManyParams c op (Nat.not_le.1 long)] at h
  refine ⟨fits, fun side => ?_⟩
  by_contra length
  simp [decodeCommand_addressSetLength side fits length] at h

/-- Settles O4: the form of what is accepted by the two classes, and one rejection for each clause. -/
theorem decoderRejectsWhatIsNeverSent : Obligations.DecoderRejectsWhatIsNeverSent := by
  intro c wf
  have markers := Config.markers_of_wf wf
  refine ⟨fun bytes i h => ?_, fun _ a op b data => decodeFrame_unknownMarker a op b data,
    fun _ _ op _ data => decodeFrame_addressBits op data,
    fun op data long => (decodeFrame_command c op data).trans (decodeCommand_tooManyParams c op long),
    fun op data side fits length =>
      (decodeFrame_command c op data).trans (decodeCommand_addressSetLength side fits length),
    fun op data partly => (decodeFrame_pixel markers op data).trans (decodePixel_pixelLength c op partly),
    fun op data some_bytes even other =>
      (decodeFrame_pixel markers op data).trans (decodePixel_pixelOpcode ⟨some_bytes, even⟩ other),
    fun _ => decodeFrame_shortHeader c⟩
  obtain ⟨op, data, ⟨rfl, hc⟩ | ⟨rfl, hp⟩⟩ := decodeFrame_ok h
  · exact ⟨c.markerCmd, op, data, rfl, .inl ⟨rfl, length_of_decodeCommand hc⟩⟩
  · obtain ⟨⟨some_bytes, even⟩, opcode, -⟩ := decodePixel_ok hp
    exact ⟨c.markerPix, op, data, rfl, .inr ⟨rfl, opcode, even, some_bytes⟩⟩

end Sys2Proof
end

section
/-! SUPPORT. The frame that an operation puts in flight, and the bytes of its parts: address field and header, address-set
payload, pixel payload (30_encoding.md R105 to R108). -/

namespace Sys2Proof.Machine

/-! ## The frame in flight -/

/-- A `Submit` with the slot free leaves in flight nothing but its own request. -/
theorem State.inflight_of_submit {op : Byte} {r q : Req} {s : State}
    (sent : (s.submit op r).inflight = some q) (slot : s.inflight = none) : q = r := by
  rcases s.submit_cases op r with h | ⟨e, -, h⟩ | ⟨e, -, h⟩ <;> rw [h] at sent
  · exact (Option.some.inj sent).symm
  · simp [slot] at sent
  · simp [slot] at sent

/-- The frame of a command write (30_encoding.md R102). -/
theorem commandReq_frame (c : Config) (op : Byte) (ps : List Byte) :
    (commandReq c op ps).frame = frameBytes c.markerCmd op ps := Req.frame_eq ..

/-- The frame of a color write (30_encoding.md R103). -/
theorem colorReq_frame (c : Config) (op : Byte) (bytes : List Byte) :
    (colorReq c op bytes).frame = frameBytes c.markerPix op bytes := Req.frame_eq ..

/-- What a command write puts in flight. -/
theorem commandWrite_frame {op : Byte} {ps : List Byte} {s t : State} {r : Req} (h : commandWrite op ps s = .next t)
    (sent : t.inflight = some r) : r.frame = frameBytes s.cfg.markerCmd op ps := by
  obtain ⟨-, -, slot, rfl⟩ := commandWrite_next.1 h
  rw [State.inflight_of_submit sent slot, commandReq_frame]

/-- What a color write puts in flight. -/
theorem pixelWrite_frame {op : Byte} {bytes : List Byte} {s t : State} {r : Req} (h : pixelWrite op bytes s = .next t)
    (sent : t.inflight = some r) : r.frame = frameBytes s.cfg.markerPix op bytes := by
  obtain ⟨-, -, -, slot, rfl⟩ := pixelWrite_next.1 h
  rw [State.inflight_of_submit sent slot, colorReq_frame]

/-- What an address set puts in flight. -/
theorem addressSet_frame {p : Phase} {op : Byte} {start stop : Half} {s t : State} {r : Req}
    (h : addressSet p op start stop s = .next t) (sent : t.inflight = some r) :
    r.frame = frameBytes s.cfg.markerCmd op (sidePayload start stop) := by
  obtain ⟨-, -, -, slot, rfl⟩ := addressSet_next.1 h
  rw [State.inflight_of_submit sent slot, commandReq_frame]

/-- What a table entry's operation puts in flight. -/
theorem initEntry_frame {op : Byte} {ps : List Byte} {s t : State} {r : Req} (h : initEntry op ps s = .next t)
    (sent : t.inflight = some r) : r.frame = frameBytes s.cfg.markerCmd op ps :=
  commandWrite_frame (inPhase_next.1 h).2 sent

/-- What CMDWR puts in flight. -/
theorem execCmdwr_frame {op : Byte} {ps : List Byte} {s t : State} {r : Req} (h : execCmdwr op ps s = .next t)
    (sent : t.inflight = some r) : r.frame = frameBytes s.cfg.markerCmd op ps := by
  unfold execCmdwr at h
  split at h
  · exact commandWrite_frame h sent
  · exact commandWrite_frame h sent
  · exact commandWrite_frame h sent
  · cases h

/-- INIT puts nothing in flight. -/
theorem execInit_inflight {rst : Bool} {x : Option XHandle} {s t : State} (h : execInit rst x s = .next t) :
    t.inflight = s.inflight := by
  simp only [execInit] at h
  repeat' split at h
  all_goals cases h <;> simp [State.startPulse]

/-- FLUSH puts nothing in flight. -/
theorem execFlush_inflight {x0 y0 x1 y1 : Half} {src : Option (List Half)} {s t : State}
    (h : execFlush x0 y0 x1 y1 src s = .next t) : t.inflight = s.inflight := by
  simp only [execFlush] at h
  repeat' split at h
  all_goals cases h <;> simp

/-- Settles O5, by the path that each operation takes: command write, address set, color write or table entry; a host
operation puts no frame in flight. -/
theorem sentFrameIsEncoding : Obligations.SentFrameIsEncoding := by
  intro i s t r h slot sent
  cases i with
  | cmdwr => exact congrArg Code.frame (execCmdwr_frame h sent).symm
  | caset | raset => exact congrArg Code.frame (addressSet_frame h sent).symm
  | ramwr | ramwrc => exact congrArg Code.frame (pixelWrite_frame (inPhase_next.1 h).2 sent).symm
  | colmod | madctl | teon | invon | slpout | dispon | vendor =>
    exact congrArg Code.frame (initEntry_frame h sent).symm
  | init => simp [execInit_inflight h, slot] at sent
  | flush => simp [execFlush_inflight h, slot] at sent

end Sys2Proof.Machine

namespace Sys2Proof

/-! ## The pixel payload -/

/-- The two payload bytes of a pixel stand after those of the pixels before it. -/
theorem getElem?_pixelPayload (o : PixOrder) {px : List Half} {k j : Nat} {v : Half} (pixel : px[k]? = some v)
    (hj : j < 2) : (pixelPayload o px)[2 * k + j]? = (pixelBytes o (perm v))[j]? := by
  induction px generalizing k with
  | nil => simp at pixel
  | cons p px ih =>
    rw [pixelPayload_cons]
    cases k with
    | zero =>
      obtain rfl : p = v := by simpa using pixel
      rw [Nat.mul_zero, Nat.zero_add, List.getElem?_append_left (by rwa [pixelBytes_length])]
    | succ k =>
      rw [List.getElem?_append_right (by simp; omega), pixelBytes_length,
        show 2 * (k + 1) + j - 2 = 2 * k + j by omega]
      exact ih (by simpa using pixel)

/-- Settles O8: the length, the place of each pixel's two bytes, and the pixels read back. -/
theorem pixelPayloadBytes : Obligations.PixelPayloadBytes := by
  refine fun o px => ⟨pixelPayload_length o px, fun k v pixel => ?_, pixelsOfBytes_pixelPayload o px⟩
  have first := getElem?_pixelPayload o pixel (j := 0) (by decide)
  have second := getElem?_pixelPayload o pixel (j := 1) (by decide)
  cases o <;> exact ⟨first, second⟩

/-! ## The address field and the header -/

/-- The address field is the opcode times 256: no bit is lost (30_encoding.md R105). -/
theorem addressField_toNat (op : Byte) : (addressField op).toNat = op.toNat * 2 ^ 8 := by
  have := op.isLt
  rw [addressField, BitVec.toNat_shiftLeft, BitVec.toNat_setWidth, Nat.shiftLeft_eq]
  omega

/-- A byte of the address field. -/
theorem addressField_byte (op : Byte) {k : Nat} (hk : k = 0 ∨ k = 8 ∨ k = 16) :
    (addressField op).extractLsb' k 8 = if k = 8 then op else 0 := by
  rw [addressField_eq, Machine.address_byte op hk]

/-- A byte of the header below the marker is a byte of the address field. -/
theorem frameHeader_byte (m op : Byte) {k : Nat} (below : k + 8 ≤ 24) :
    (frameHeader m op).extractLsb' k 8 = (addressField op).extractLsb' k 8 :=
  BitVec.extractLsb'_append_eq_of_add_le (xhi := m) below

/-- Settles O6: the address field byte by byte; the header's marker, and its other bytes from the address field. -/
theorem headerFields : Obligations.HeaderFields := by
  intro m op
  have high : (addressField op).extractLsb' 16 8 = 0#8 := addressField_byte op (.inr (.inr rfl))
  have opcode : (addressField op).extractLsb' 8 8 = op := addressField_byte op (.inr (.inl rfl))
  have low : (addressField op).extractLsb' 0 8 = 0#8 := addressField_byte op (.inl rfl)
  exact ⟨addressField_toNat op, high, opcode, low, headerMarker_frameHeader m op,
    (frameHeader_byte m op (by decide)).trans high, (frameHeader_byte m op (by decide)).trans opcode,
    (frameHeader_byte m op (by decide)).trans low⟩

/-! ## The address-set payload -/

/-- The inclusive end of a side of positive extent: no borrow (30_encoding.md R106). -/
theorem toNat_stop_sub_one {start stop : Half} (extent : start.toNat < stop.toNat) :
    (stop - 1).toNat = stop.toNat - 1 := by
  bv_omega

/-- Settles O7: no borrow in either end; the payload is the four bytes by definition, and the spec's example is computed. -/
theorem addressSetPayload : Obligations.AddressSetPayload :=
  ⟨fun _ _ _ _ columns rows => ⟨toNat_stop_sub_one columns, toNat_stop_sub_one rows, rfl, rfl⟩, by decide, by decide⟩

end Sys2Proof
end

section
/-! SUPPORT. The form of every request that the block submits (40_transaction_encoder.md R149, 30_encoding.md R100 to
R103). -/

namespace Sys2Proof.Machine

/-- Settles O50: what a step submits is a command write within the parameter buffer, or the pixel write of the scratch
buffer. -/
theorem submittedFramesAreWellFormed : Obligations.SubmittedFramesAreWellFormed := by
  intro s t r a n h hr
  obtain ⟨answer, time, attached, free, issues⟩ := step_submitted h hr
  refine ⟨attached, free, time, answer, issues.imp_right ?_⟩
  rintro ⟨b, -, -, req, ⟨some_bytes, even⟩, opcode⟩
  exact ⟨b.payload, req, even, some_bytes, opcode⟩

end Sys2Proof.Machine
end

section
/-! SUPPORT. How a host operation ends, as one equation, and the wait steps of FLUSH (40_transaction_encoder.md R149,
44_flush_pipeline.md R227, R228, 60_exceptions.md R246). -/

namespace Sys2Proof.Machine

/-! ## The end of an operation -/

/-- The end of a host operation, field by field: the buffer released with its event, the result, `IDLE`. -/
theorem State.finish_eq (r : Result) (s : State) :
    s.finish r =
      { s with
        scratch := none
        result := r
        valid := true
        phase := .idle
        trace := .returned r s.now :: (released s.scratch s.now ++ s.trace) } := by
  cases held : s.scratch with
  | none => simp [State.finish, State.free_of_no_scratch held, State.log, held]
  | some b => simp [State.finish, State.free_of_scratch held, State.log]

/-- With no other agent's move to come the controller moves. -/
theorem step_of_no_moves {s : State} (h : s.moves = []) : step s = control s := by
  rw [step, h]

/-! ## The wait steps -/

/-- A failed address set: FLUSH fails (42_address_window.md R196). -/
theorem stepAddressWait_failed {s : State} {r : Req} {e : XErr} (p : Phase) (slot : s.inflight = some r)
    (signal : s.completion = some (.failed e)) :
    stepAddressWait p s = .next ((s.received r (.failed e)).finish (.xportFail e)) :=
  awaitDone_next.2 (.inr ⟨.failed e, r, signal, slot, rfl⟩)

/-- The two wait phases of SETWIN and the phase that each leads to. -/
theorem control_addressWait {s : State} {p : Phase}
    (h : (s.phase = .fCasetWait ∧ p = .fRasetIssue) ∨ (s.phase = .fRasetWait ∧ p = .fAlloc)) :
    control s = stepAddressWait p s := by
  rcases h with ⟨at_phase, rfl⟩ | ⟨at_phase, rfl⟩
  · simp only [control, State.fetch, State.proceed, at_phase, stepCasetWait]
  · simp only [control, State.fetch, State.proceed, at_phase, stepRasetWait]

/-- The wait phase of the pixel write. -/
theorem control_pixWait {s : State} (at_phase : s.phase = .fPixWait) : control s = stepPixWait s := by
  simp only [control, State.fetch, State.proceed, at_phase]

/-- The completion of the pixel write ends FLUSH with the result that it calls for (44_flush_pipeline.md R228). -/
theorem stepPixWait_completed {s : State} {r : Req} {c : Completion} {res : Result} (slot : s.inflight = some r)
    (signal : s.completion = some c) (outcome : (c = .done ∧ res = .ok) ∨ ∃ e, c = .failed e ∧ res = .xportFail e) :
    stepPixWait s = .next ((s.received r c).finish res) := by
  refine awaitDone_next.2 (.inr ⟨c, r, signal, slot, ?_⟩)
  rcases outcome with ⟨rfl, rfl⟩ | ⟨e, rfl, rfl⟩ <;> rfl

/-- Settles O39: both wait phases run the wait step of an address set, which goes on after a good completion and ends
FLUSH after a failed one. -/
theorem addressSetWaits : Obligations.AddressSetWaits := by
  intro s r p no_moves slot no_buffer phases
  have runs : step s = stepAddressWait p s := (step_of_no_moves no_moves).trans (control_addressWait phases)
  refine ⟨fun signal => runs.trans (stepAddressWait_done p slot signal), fun e signal => ?_⟩
  rw [runs, stepAddressWait_failed p slot signal, State.finish_eq]
  simp [State.received, no_buffer]

/-- Settles O42: the wait step of the pixel write ends FLUSH on either completion, which releases the buffer; with no
signal it waits. -/
theorem pixelWriteWait : Obligations.PixelWriteWait := by
  intro s r b no_moves at_phase slot held
  have runs : step s = stepPixWait s := (step_of_no_moves no_moves).trans (control_pixWait at_phase)
  refine ⟨fun c res signal outcome => ?_, fun quiet => runs.trans (awaitDone_next.2 (.inl ⟨quiet, rfl⟩))⟩
  rw [runs, stepPixWait_completed slot signal outcome, State.finish_eq]
  simp [State.received, held]

end Sys2Proof.Machine
end

section
/-! SUPPORT. The frame operations: the transaction that each performs, where it is invoked, and the one lemma that says
everything its issue step can do (40_transaction_encoder.md R140 to R149). -/

namespace Sys2Proof.Machine

/-! ## The transaction of an operation -/

/-- A transaction of the encoder: a command write (40_transaction_encoder.md R140) or a color write (R145). -/
inductive Transaction where
  | command (op : Byte) (ps : List Byte)
  | color (op : Byte) (bytes : List Byte)

namespace Transaction

/-- The opcode it is sent under. -/
def opcode : Transaction → Byte
  | command op _ => op
  | color op _ => op

/-- The request it submits. -/
def request (c : Config) : Transaction → Req
  | command op ps => commandReq c op ps
  | color op bytes => colorReq c op bytes

/-- The state in which it is submitted. -/
def prepared (s : State) : Transaction → State
  | command op ps => s.loaded op ps
  | color op _ => s.headed op

/-- A color write goes under the configured opcode (30_encoding.md R103). -/
def Configured (c : Config) : Transaction → Prop
  | command _ _ => True
  | color op _ => c.opPixwr = op

end Transaction

/-! The state in which a transaction is submitted differs in `hdr`, `pbuf` and `plen` only. -/

section prepared
variable (x : Transaction) (s : State)
@[simp] theorem Transaction.prepared_cfg : (x.prepared s).cfg = s.cfg := by cases x <;> rfl
@[simp] theorem Transaction.prepared_handle : (x.prepared s).handle = s.handle := by cases x <;> rfl
@[simp] theorem Transaction.prepared_rstN : (x.prepared s).rstN = s.rstN := by cases x <;> rfl
@[simp] theorem Transaction.prepared_initStatus : (x.prepared s).initStatus = s.initStatus := by cases x <;> rfl
@[simp] theorem Transaction.prepared_result : (x.prepared s).result = s.result := by cases x <;> rfl
@[simp] theorem Transaction.prepared_valid : (x.prepared s).valid = s.valid := by cases x <;> rfl
@[simp] theorem Transaction.prepared_phase : (x.prepared s).phase = s.phase := by cases x <;> rfl
@[simp] theorem Transaction.prepared_idx : (x.prepared s).idx = s.idx := by cases x <;> rfl
@[simp] theorem Transaction.prepared_tMark : (x.prepared s).tMark = s.tMark := by cases x <;> rfl
@[simp] theorem Transaction.prepared_rstCfg : (x.prepared s).rstCfg = s.rstCfg := by cases x <;> rfl
@[simp] theorem Transaction.prepared_win : (x.prepared s).win = s.win := by cases x <;> rfl
@[simp] theorem Transaction.prepared_px : (x.prepared s).px = s.px := by cases x <;> rfl
@[simp] theorem Transaction.prepared_pcount : (x.prepared s).pcount = s.pcount := by cases x <;> rfl
@[simp] theorem Transaction.prepared_src : (x.prepared s).src = s.src := by cases x <;> rfl
@[simp] theorem Transaction.prepared_scratch : (x.prepared s).scratch = s.scratch := by cases x <;> rfl
@[simp] theorem Transaction.prepared_inflight : (x.prepared s).inflight = s.inflight := by cases x <;> rfl
@[simp] theorem Transaction.prepared_now : (x.prepared s).now = s.now := by cases x <;> rfl
@[simp] theorem Transaction.prepared_hostPort : (x.prepared s).hostPort = s.hostPort := by cases x <;> rfl
@[simp] theorem Transaction.prepared_submitAns : (x.prepared s).submitAns = s.submitAns := by cases x <;> rfl
@[simp] theorem Transaction.prepared_completion : (x.prepared s).completion = s.completion := by cases x <;> rfl
@[simp] theorem Transaction.prepared_allocAns : (x.prepared s).allocAns = s.allocAns := by cases x <;> rfl
@[simp] theorem Transaction.prepared_panel : (x.prepared s).panel = s.panel := by cases x <;> rfl
@[simp] theorem Transaction.prepared_allocs : (x.prepared s).allocs = s.allocs := by cases x <;> rfl
@[simp] theorem Transaction.prepared_moves : (x.prepared s).moves = s.moves := by cases x <;> rfl
@[simp] theorem Transaction.prepared_trace : (x.prepared s).trace = s.trace := by cases x <;> rfl
end prepared

/-- The transaction that a frame operation performs; a host operation performs none itself. -/
def transactionOf (c : Config) : Instr → Option Transaction
  | .cmdwr op ps => some (.command op ps)
  | .caset x0 x1 => some (.command c.opCaset (sidePayload x0 x1))
  | .raset y0 y1 => some (.command c.opRaset (sidePayload y0 y1))
  | .ramwr bytes => some (.color 0x2C bytes)
  | .ramwrc bytes => some (.color 0x3C bytes)
  | .colmod ps => some (.command c.opColmod ps)
  | .madctl ps => some (.command c.opMadctl ps)
  | .teon ps => some (.command c.opTeon ps)
  | .invon ps => some (.command c.opInvon ps)
  | .slpout ps => some (.command c.opSlpout ps)
  | .dispon ps => some (.command c.opDispon ps)
  | .vendor op ps => some (.command op ps)
  | .init _ _ => none
  | .flush _ _ _ _ _ => none

/-- The phases whose controller invokes a frame operation (00_scope.md R3). -/
def invokedIn : Instr → List Phase
  | .cmdwr _ _ => [.iIssue, .fCasetIssue, .fRasetIssue]
  | .caset _ _ => [.fCasetIssue]
  | .raset _ _ => [.fRasetIssue]
  | .ramwr _ => [.fPixIssue]
  | .ramwrc _ => [.fPixIssue]
  | .init _ _ => []
  | .flush _ _ _ _ _ => []
  | _ => [.iIssue]

/-- Every operation but the two host operations performs a transaction. -/
theorem exists_transactionOf (c : Config) {i : Instr} (not_init : ∀ rst x, i ≠ .init rst x)
    (not_flush : ∀ x0 y0 x1 y1 src, i ≠ .flush x0 y0 x1 y1 src) : ∃ x, transactionOf c i = some x := by
  cases i with
  | init rst x => exact absurd rfl (not_init rst x)
  | flush x0 y0 x1 y1 src => exact absurd rfl (not_flush x0 y0 x1 y1 src)
  | _ => exact ⟨_, rfl⟩

/-- Of INIT's phases only `I_ISSUE` invokes an operation. -/
theorem isInit_eq_false_of_invoked {i : Instr} {p : Phase} (invoked : p ∈ invokedIn i) (not_entry : p ≠ .iIssue) :
    p.isInit = false := by
  have flush : p = .fCasetIssue ∨ p = .fRasetIssue ∨ p = .fPixIssue := by
    cases i <;> simp [invokedIn] at invoked <;> tauto
  rcases flush with rfl | rfl | rfl <;> rfl

/-! ## The issue step -/

/-- CMDWR runs in the three phases that invoke it. -/
theorem execCmdwr_next {op : Byte} {ps : List Byte} {s t : State} :
    execCmdwr op ps s = .next t ↔ s.phase ∈ invokedIn (.cmdwr op ps) ∧ commandWrite op ps s = .next t := by
  unfold execCmdwr
  split <;> simp_all [invokedIn]

/-- What a table entry's operation can do. -/
theorem initEntry_next {op : Byte} {ps : List Byte} {s t : State} :
    initEntry op ps s = .next t ↔
      s.phase = .iIssue ∧ ps.length ≤ maxParams ∧ s.handle ≠ none ∧ s.inflight = none ∧
        t = (s.loaded op ps).submit op (commandReq s.cfg op ps) :=
  inPhase_next.trans (and_congr_right fun _ => commandWrite_next)

/-- What a color write's operation can do. -/
theorem inPhase_pixelWrite_next {op : Byte} {bytes : List Byte} {s t : State} :
    inPhase .fPixIssue s (pixelWrite op bytes) = .next t ↔
      s.phase = .fPixIssue ∧ (bytes ≠ [] ∧ bytes.length % 2 = 0) ∧ s.cfg.opPixwr = op ∧ s.handle ≠ none ∧
        s.inflight = none ∧ t = (s.headed op).submit op (colorReq s.cfg op bytes) :=
  inPhase_next.trans (and_congr_right fun _ => pixelWrite_next)

/-- What a frame operation does: invoked in its phase, with operands the block can send, a handle and a free slot, it
submits the request of its transaction. -/
theorem exec_transaction_next {i : Instr} {x : Transaction} {s t : State} (hx : transactionOf s.cfg i = some x) :
    exec i s = .next t ↔
      s.phase ∈ invokedIn i ∧ i.wf = true ∧ x.Configured s.cfg ∧ s.handle ≠ none ∧ s.inflight = none ∧
        t = (x.prepared s).submit x.opcode (x.request s.cfg) := by
  cases i with
  | init => cases hx
  | flush => cases hx
  | cmdwr op ps =>
    cases hx
    simp only [exec, execCmdwr_next, commandWrite_next, Instr.wf, decide_eq_true_eq, Transaction.Configured, true_and]
    rfl
  | caset | raset =>
    cases hx
    simp only [exec, execCaset, execRaset, addressSet_next, Instr.wf, decide_eq_true_eq, Transaction.Configured, true_and,
      invokedIn, List.mem_singleton]
    exact and_left_comm
  | ramwr | ramwrc =>
    cases hx
    simp only [exec, execRamwr, execRamwrc, inPhase_pixelWrite_next, Instr.wf, decide_eq_true_eq, invokedIn,
      List.mem_singleton]
    rfl
  | _ =>
    cases hx
    simp only [exec, execColmod, execMadctl, execTeon, execInvon, execSlpout, execDispon, execVendor, initEntry_next,
      Instr.wf, decide_eq_true_eq, Transaction.Configured, true_and, invokedIn, List.mem_singleton]
    rfl

/-- The operation `i` performs the transaction `x`, and its issue step has what it needs. -/
structure Issuable (i : Instr) (x : Transaction) (s : State) : Prop where
  performs   : transactionOf s.cfg i = some x
  invoked    : s.phase ∈ invokedIn i
  wf         : i.wf = true
  configured : x.Configured s.cfg
  attached   : s.handle ≠ none
  free       : s.inflight = none

/-- An issue step that has what it needs submits the request. -/
theorem Issuable.exec_eq {i : Instr} {x : Transaction} {s : State} (h : Issuable i x s) :
    exec i s = .next ((x.prepared s).submit x.opcode (x.request s.cfg)) :=
  (exec_transaction_next h.performs).2 ⟨h.invoked, h.wf, h.configured, h.attached, h.free, rfl⟩

/-- Settles O26: a next state comes only from an issue step, which has its phase, a handle and a free slot. -/
theorem unitOperationsRunOnlyWhereInvoked : Obligations.UnitOperationsRunOnlyWhereInvoked := by
  intro i s t h
  have issue (x : Transaction) (hx : transactionOf s.cfg i = some x) := (exec_transaction_next hx).1 h
  refine ⟨?_, ?_, ?_, ?_, ?_, ?_⟩
  · rintro op ps rfl
    simpa [invokedIn] using (issue _ rfl).1
  · rintro op ps (rfl | rfl | rfl | rfl | rfl | rfl | rfl)
    all_goals exact List.mem_singleton.1 (issue _ rfl).1
  · rintro a b rfl
    exact List.mem_singleton.1 (issue _ rfl).1
  · rintro a b rfl
    exact List.mem_singleton.1 (issue _ rfl).1
  · rintro bs (rfl | rfl)
    all_goals exact List.mem_singleton.1 (issue _ rfl).1
  · intro not_init not_flush
    obtain ⟨x, hx⟩ := exists_transactionOf s.cfg not_init not_flush
    obtain ⟨-, -, -, attached, free, -⟩ := issue x hx
    exact ⟨attached, free⟩

/-! ## An accepted request -/

/-- The header of a frame, its address written out in bytes. -/
theorem frameHeader_eq (m op : Byte) : frameHeader m op = m ++ (0#8 ++ op ++ 0#8) := by
  rw [frameHeader, addressField_eq]

/-- An issue step whose request is accepted: the request is in flight. -/
theorem Issuable.exec_accepted {i : Instr} {x : Transaction} {s : State} (h : Issuable i x s)
    (accepting : s.submitAns = .accepted) :
    exec i s = .next ((x.prepared s).sent (x.prepared s).hdr (x.request s.cfg)) :=
  h.exec_eq.trans (congrArg _ (State.submit_accepted _ _ ((x.prepared_submitAns s).trans accepting)))

/-- Settles O19: CMDWR's command write is accepted; the header's address in bytes. -/
theorem cmdwrSends : Obligations.CmdwrSends := by
  intro s op ps phases short attached free accepting
  have issue : Issuable (.cmdwr op ps) (.command op ps) s :=
    ⟨rfl, by simpa [invokedIn] using phases, decide_eq_true short, trivial, attached, free⟩
  rw [← frameHeader_eq]
  exact issue.exec_accepted accepting

/-- Settles O22: the color write is accepted, under either opcode where it is the configured one. -/
theorem pixelWritesSend : Obligations.PixelWritesSend := by
  intro s bs some_bytes even at_phase attached free accepting
  have invoked : s.phase ∈ [Phase.fPixIssue] := List.mem_singleton.2 at_phase
  have wf : decide (bs ≠ [] ∧ bs.length % 2 = 0) = true := decide_eq_true ⟨some_bytes, even⟩
  simp only [← frameHeader_eq]
  refine ⟨fun opcode => ?_, fun opcode => ?_⟩
  · have issue : Issuable (.ramwr bs) (.color 0x2C bs) s := ⟨rfl, invoked, wf, opcode, attached, free⟩
    exact issue.exec_accepted accepting
  · have issue : Issuable (.ramwrc bs) (.color 0x3C bs) s := ⟨rfl, invoked, wf, opcode, attached, free⟩
    exact issue.exec_accepted accepting

/-! ## A refused request -/

/-- An issue step whose request is refused: the operation that invoked it fails (40_transaction_encoder.md R149). -/
theorem Issuable.exec_refused {i : Instr} {x : Transaction} {s : State} {e : XErr} (h : Issuable i x s)
    (refusing : s.submitAns = .refused e) :
    exec i s =
      .next (((x.prepared s).log (.submitted (x.request s.cfg) (.refused e) s.now)).failTransaction x.opcode e) := by
  rw [h.exec_eq, State.submit_refused _ _ ((x.prepared_submitAns s).trans refusing), x.prepared_now]

/-- Settles O23: each of the eight operations is the command write of the entry's opcode and bytes, and INIT takes its
failure. -/
theorem entryRefusedFailsInit : Obligations.EntryRefusedFailsInit := by
  intro s i op ps e entry at_phase short attached free no_buffer refusing
  have issue : Issuable i (.command op ps) s := by
    have wf : decide (ps.length ≤ maxParams) = true := decide_eq_true short
    rcases entry with ⟨rfl, rfl⟩ | ⟨rfl, rfl⟩ | ⟨rfl, rfl⟩ | ⟨rfl, rfl⟩ | ⟨rfl, rfl⟩ | ⟨rfl, rfl⟩ | rfl | rfl
    all_goals exact ⟨rfl, by simp [invokedIn, at_phase], wf, trivial, attached, free⟩
  refine ⟨_, issue.exec_refused refusing, ?_⟩
  rw [State.failTransaction_of_init _ _ (by simp [at_phase, Phase.isInit])]
  simp [free, no_buffer, Transaction.request, Transaction.opcode]

/-- Settles O24: an address set, a color write or a CMDWR in a phase of FLUSH, and FLUSH takes its failure. -/
theorem transactionRefusedFailsFlush : Obligations.TransactionRefusedFailsFlush := by
  intro s e attached free refusing i r transaction
  have issue : ∃ x, Issuable i x s ∧ r = x.request s.cfg ∧ s.phase ≠ .iIssue := by
    rcases transaction with ⟨a, b, side, either⟩ | ⟨bs, some_bytes, even, at_phase, write⟩ | ⟨op, ps, short, phases, rfl, rfl⟩
    · rcases either with ⟨at_phase, rfl, rfl⟩ | ⟨at_phase, rfl, rfl⟩
      all_goals
        exact ⟨_, ⟨rfl, by simp [invokedIn, at_phase], decide_eq_true side, trivial, attached, free⟩, rfl,
          by simp [at_phase]⟩
    · rcases write with ⟨opcode, rfl, rfl⟩ | ⟨opcode, rfl, rfl⟩
      all_goals
        exact ⟨_, ⟨rfl, by simp [invokedIn, at_phase], decide_eq_true ⟨some_bytes, even⟩, opcode, attached, free⟩, rfl,
          by simp [at_phase]⟩
    · exact ⟨_, ⟨rfl, by simp [invokedIn, phases], decide_eq_true short, trivial, attached, free⟩, rfl,
        by rcases phases with h | h <;> simp [h]⟩
  obtain ⟨x, issue, rfl, not_entry⟩ := issue
  refine ⟨_, issue.exec_refused refusing, ?_⟩
  rw [State.failTransaction_of_flush _ _ (by simpa using isInit_eq_false_of_invoked issue.invoked not_entry)]
  cases held : s.scratch <;> simp [free, held]

/-! ## The frame of an issue step -/

/-- What `Submit` may write, whatever the answer; every other field stays. -/
theorem State.submit_writes (op : Byte) (r : Req) (s : State) :
    ∃ initStatus result valid phase scratch inflight panel trace,
      s.submit op r =
        { s with
          initStatus := initStatus
          result := result
          valid := valid
          phase := phase
          scratch := scratch
          inflight := inflight
          panel := panel
          trace := trace } := by
  rcases s.submit_cases op r with h | ⟨e, -, h⟩ | ⟨e, -, h⟩ <;> rw [h]
  · exact ⟨_, _, _, _, _, _, _, _, rfl⟩
  · rw [State.initSeqFail, State.raise, State.finish_eq]
    exact ⟨_, _, _, _, _, _, _, _, rfl⟩
  · rw [State.xportFail, State.raise, State.finish_eq]
    exact ⟨_, _, _, _, _, _, _, _, rfl⟩

@[simp] theorem State.failTransaction_inflight (op : Byte) (e : XErr) (s : State) :
    (s.failTransaction op e).inflight = s.inflight := by
  unfold State.failTransaction
  split <;> simp

@[simp] theorem State.failTransaction_scratch (op : Byte) (e : XErr) (s : State) :
    (s.failTransaction op e).scratch = none := by
  unfold State.failTransaction
  split <;> simp

/-- Settles O32: an issue step writes the registers of its transaction and what `Submit` writes; accepted, `Submit` keeps
the result, the buffer and the panel's memories; refused, it ends the operation. -/
theorem frameOperationsFrame : Obligations.FrameOperationsFrame := by
  intro i s t not_init not_flush h
  obtain ⟨x, hx⟩ := exists_transactionOf s.cfg not_init not_flush
  obtain ⟨invoked, -, -, -, free, rfl⟩ := (exec_transaction_next hx).1 h
  obtain ⟨_, _, _, _, _, _, _, _, written⟩ := (x.prepared s).submit_writes x.opcode (x.request s.cfg)
  refine ⟨by simp [written], fun bs pixels => ?_, fun accepting => ?_, fun e refusing => ?_⟩
  · rw [written]
    rcases pixels with rfl | rfl <;> cases hx <;> exact ⟨rfl, rfl⟩
  · rw [State.submit_accepted _ _ ((x.prepared_submitAns s).trans accepting)]
    refine ⟨by simp, by simp, by simp, by simp, fun b b' held held' => ?_, by simp [Panel.sending],
      by simp [Panel.sending]⟩
    obtain rfl : b = b' := by simpa [held] using held'
    exact ⟨rfl, fun _ => rfl⟩
  · rw [State.submit_refused _ _ ((x.prepared_submitAns s).trans refusing)]
    refine ⟨by simp [free], by simp, fun not_entry => ?_⟩
    rw [State.failTransaction_of_flush _ _ (by simpa using isInit_eq_false_of_invoked invoked not_entry)]
    simp

/-! ## Operands that no unit is given -/

/-- A command write of more bytes than the parameter buffer holds (40_transaction_encoder.md R141). -/
theorem commandWrite_paramsTooLong (op : Byte) {ps : List Byte} (s : State) (long : maxParams < ps.length) :
    commandWrite op ps s = .refused .paramsTooLong := if_pos long

/-- In its phase a unit operation is what it does there. -/
theorem inPhase_of_phase {p : Phase} {s : State} (at_phase : s.phase = p) (k : State → Result1) :
    inPhase p s k = k s := if_pos at_phase

/-- A side of no positive extent (42_address_window.md R195). -/
theorem addressSet_emptySide (p : Phase) (op : Byte) {start stop : Half} (s : State)
    (empty : stop.toNat ≤ start.toNat) : addressSet p op start stop s = .refused .emptySide := if_pos empty

/-- A payload that is not of whole pixels (30_encoding.md R120). -/
theorem pixelWrite_badPayload (op : Byte) {bytes : List Byte} (s : State)
    (partly : bytes = [] ∨ bytes.length % 2 = 1) : pixelWrite op bytes s = .refused .badPayload :=
  if_pos (partly.imp_right fun odd => by omega)

/-- A color write under an opcode other than the configured one (30_encoding.md R120). -/
theorem pixelWrite_pixelOpcodeNotConfigured {op : Byte} {bytes : List Byte} {s : State} (some_bytes : bytes ≠ [])
    (even : bytes.length % 2 = 0) (other : s.cfg.opPixwr ≠ op) :
    pixelWrite op bytes s = .refused .pixelOpcodeNotConfigured := by
  rw [pixelWrite, if_neg (by simp [some_bytes, even]), if_pos other]

/-- Settles O25: each operation, in its phase, is the path that refuses such operands. -/
theorem illFormedOperandsRefused : Obligations.IllFormedOperandsRefused := by
  refine fun s => ⟨fun op ps long phases => ?_, fun i op ps long at_phase entry => ?_,
    fun a b empty => ⟨addressSet_emptySide _ _ s empty, addressSet_emptySide _ _ s empty⟩,
    fun bs at_phase partly => ?_, fun bs at_phase some_bytes even => ?_⟩
  · have refused := commandWrite_paramsTooLong op s long
    rcases phases with h | h | h <;> simpa only [exec, execCmdwr, h] using refused
  · have refused (op : Byte) : initEntry op ps s = .refused .paramsTooLong :=
      (inPhase_of_phase at_phase _).trans (commandWrite_paramsTooLong op s long)
    rcases entry with rfl | rfl | rfl | rfl | rfl | rfl | rfl
    all_goals exact refused _
  · have refused (op : Byte) : inPhase .fPixIssue s (pixelWrite op bs) = .refused .badPayload :=
      (inPhase_of_phase at_phase _).trans (pixelWrite_badPayload op s partly)
    exact ⟨refused 0x2C, refused 0x3C⟩
  · have refused (op : Byte) (other : s.cfg.opPixwr ≠ op) :
        inPhase .fPixIssue s (pixelWrite op bs) = .refused .pixelOpcodeNotConfigured :=
      (inPhase_of_phase at_phase _).trans (pixelWrite_pixelOpcodeNotConfigured some_bytes even other)
    exact ⟨refused 0x2C, refused 0x3C⟩

end Sys2Proof.Machine
end

section
/-! SUPPORT. The steps of INIT in its phases: the reset pulse (41_init_sequencer.md R162), and the issue, the completion and
the post-delay of one table entry (R163, R164, R168). -/

namespace Sys2Proof.Machine

/-! ## What the controller runs in each phase of INIT -/

theorem control_iRstLow {s : State} (at_phase : s.phase = .iRstLow) : control s = stepRstLow s := by
  simp only [control, State.fetch, State.proceed, at_phase]

theorem control_iRstSettle {s : State} (at_phase : s.phase = .iRstSettle) : control s = stepRstSettle s := by
  simp only [control, State.fetch, State.proceed, at_phase]

/-- Whatever its role, the entry at `idx` is issued as VENDOR is (41_init_sequencer.md R164, R176). -/
theorem control_iIssue {s : State} {e : CommandEntry} (at_phase : s.phase = .iIssue) (at_idx : s.entry = some e) :
    control s = exec (.vendor e.opcode e.parameters) s := by
  simp only [control, State.fetch, at_phase, at_idx, exec_entryInstr]
  rfl

theorem control_iWait {s : State} (at_phase : s.phase = .iWait) : control s = stepInitWait s := by
  simp only [control, State.fetch, State.proceed, at_phase]

theorem control_iDelay {s : State} (at_phase : s.phase = .iDelay) : control s = stepInitDelay s := by
  simp only [control, State.fetch, State.proceed, at_phase]

/-! ## The reset pulse -/

/-- The time from the mark on is over (00_scope.md R15). -/
theorem State.elapsed_of_le {s : State} {d : Nat} (due : s.tMark + d ≤ s.now) : s.elapsed d = true :=
  decide_eq_true due

/-- The time from the mark on is not over. -/
theorem State.elapsed_of_lt {s : State} {d : Nat} (early : s.now < s.tMark + d) : s.elapsed d = false :=
  decide_eq_false (Nat.not_le.2 early)

theorem stepRstLow_early {s : State} (early : s.now < s.tMark + s.cfg.tRstLow) : stepRstLow s = .next s := by
  simp [stepRstLow, State.elapsed_of_lt early]

theorem stepRstLow_over {s : State} (due : s.tMark + s.cfg.tRstLow ≤ s.now) :
    stepRstLow s = .next ((s.driveRst .high).markTime.goto .iRstSettle) := by
  simp [stepRstLow, State.elapsed_of_le due]

theorem stepRstSettle_early {s : State} (early : s.now < s.tMark + s.cfg.tRstSettle) : stepRstSettle s = .next s := by
  simp [stepRstSettle, State.elapsed_of_lt early]

theorem stepRstSettle_over {s : State} (due : s.tMark + s.cfg.tRstSettle ≤ s.now) :
    stepRstSettle s = .next (s.goto .iIssue) := by
  simp [stepRstSettle, State.elapsed_of_le due]

/-- Settles O36: both phases of the pulse wait until their time is over. -/
theorem resetPulseSteps : Obligations.ResetPulseSteps := by
  intro s no_moves
  have runs := step_of_no_moves no_moves
  exact
    ⟨fun at_phase early => (runs.trans (control_iRstLow at_phase)).trans (stepRstLow_early early),
      fun at_phase due => (runs.trans (control_iRstLow at_phase)).trans (stepRstLow_over due),
      fun at_phase early => (runs.trans (control_iRstSettle at_phase)).trans (stepRstSettle_early early),
      fun at_phase due => (runs.trans (control_iRstSettle at_phase)).trans (stepRstSettle_over due)⟩

/-! ## The steps of one entry -/

/-- The operation `i` is the replay of a table entry with opcode `op` and bytes `ps` (41_init_sequencer.md R170 to R176). -/
def EntryOperation (c : Config) (op : Byte) (ps : List Byte) (i : Instr) : Prop :=
  (i = .colmod ps ∧ op = c.opColmod) ∨ (i = .madctl ps ∧ op = c.opMadctl) ∨ (i = .teon ps ∧ op = c.opTeon) ∨
    (i = .invon ps ∧ op = c.opInvon) ∨ (i = .slpout ps ∧ op = c.opSlpout) ∨ (i = .dispon ps ∧ op = c.opDispon) ∨
    i = .vendor op ps

/-- In `I_ISSUE` such an operation can be issued. -/
theorem EntryOperation.issuable {s : State} {i : Instr} {op : Byte} {ps : List Byte} (entry : EntryOperation s.cfg op ps i)
    (at_phase : s.phase = .iIssue) (short : ps.length ≤ maxParams) (attached : s.handle ≠ none)
    (free : s.inflight = none) : Issuable i (.command op ps) s := by
  have invoked : s.phase ∈ [Phase.iIssue] := List.mem_singleton.2 at_phase
  have wf : decide (ps.length ≤ maxParams) = true := decide_eq_true short
  rcases entry with ⟨rfl, rfl⟩ | ⟨rfl, rfl⟩ | ⟨rfl, rfl⟩ | ⟨rfl, rfl⟩ | ⟨rfl, rfl⟩ | ⟨rfl, rfl⟩ | rfl
  all_goals exact ⟨rfl, invoked, wf, trivial, attached, free⟩

/-- Settles O20: the operation's command write is accepted; the header's address in bytes. -/
theorem entryOperationsSend : Obligations.EntryOperationsSend := by
  intro s i op ps entry at_phase short attached free accepting
  have issue := EntryOperation.issuable entry at_phase short attached free
  rw [← frameHeader_eq]
  exact issue.exec_accepted accepting

/-- VENDOR, as which every entry is issued. -/
theorem issuable_vendor {s : State} (op : Byte) {ps : List Byte} (at_phase : s.phase = .iIssue)
    (short : ps.length ≤ maxParams) (attached : s.handle ≠ none) (free : s.inflight = none) :
    Issuable (.vendor op ps) (.command op ps) s :=
  EntryOperation.issuable (by simp [EntryOperation]) at_phase short attached free

@[simp] theorem State.received_entry (r : Req) (c : Completion) (s : State) : (s.received r c).entry = s.entry := rfl

/-- An entry done: its post-delay starts if there is one, else the next entry (41_init_sequencer.md R164). -/
theorem stepInitWait_done {s : State} {r : Req} {e : CommandEntry} (at_idx : s.entry = some e)
    (slot : s.inflight = some r) (signal : s.completion = some .done) :
    stepInitWait s =
      .next (if e.postDelay ≠ 0 then (s.received r .done).markTime.goto .iDelay else (s.received r .done).nextEntry) :=
  awaitDone_next.2 (.inr ⟨.done, r, signal, slot, by rw [State.received_entry, at_idx]⟩)

/-- An entry failed at completion: INIT fails (41_init_sequencer.md R168). -/
theorem stepInitWait_failed {s : State} {r : Req} {e : CommandEntry} {x : XErr} (at_idx : s.entry = some e)
    (slot : s.inflight = some r) (signal : s.completion = some (.failed x)) :
    stepInitWait s = .next ((s.received r (.failed x)).initSeqFail e.opcode x) :=
  awaitDone_next.2 (.inr ⟨.failed x, r, signal, slot, by rw [State.received_entry, at_idx]⟩)

theorem stepInitDelay_early {s : State} {e : CommandEntry} (at_idx : s.entry = some e)
    (early : s.now < s.tMark + e.postDelay) : stepInitDelay s = .next s := by
  simp [stepInitDelay, at_idx, State.elapsed_of_lt early]

theorem stepInitDelay_over {s : State} {e : CommandEntry} (at_idx : s.entry = some e)
    (due : s.tMark + e.postDelay ≤ s.now) : stepInitDelay s = .next s.nextEntry := by
  simp [stepInitDelay, at_idx, State.elapsed_of_le due]

/-- INIT returns with every entry sent (41_init_sequencer.md R164). -/
def State.initReturned (s : State) : State :=
  { s with
    initStatus := .ok
    result := .ok
    valid := true
    phase := .idle
    trace := .returned .ok s.now :: s.trace }

/-- The step past an entry, field by field: the next entry is issued, or INIT returns. -/
theorem State.nextEntry_eq {s : State} (no_buffer : s.scratch = none) :
    s.nextEntry =
      if s.idx + 1 < s.cfg.initTable.length then { s with idx := s.idx + 1, phase := .iIssue }
      else { s with idx := s.idx + 1 }.initReturned := by
  rcases s.nextEntry_cases with ⟨more, h⟩ | ⟨last, h⟩
  · rw [h, if_pos more]
    rfl
  · rw [h, if_neg (Nat.not_lt.2 last), State.returnOk, State.finish_eq]
    simp [State.initReturned, no_buffer]

/-- Settles O38: the wait step takes the failure, and INIT's failure is the end of the operation. -/
theorem entryFailedAtCompletion : Obligations.EntryFailedAtCompletion := by
  intro s e r x no_moves at_idx at_phase slot signal no_buffer
  refine ⟨_, ((step_of_no_moves no_moves).trans (control_iWait at_phase)).trans
    (stepInitWait_failed at_idx slot signal), ?_⟩
  simp [State.received, no_buffer]

/-- Settles O37: the steps of an entry, each from its phase. -/
theorem replayOneEntry : Obligations.ReplayOneEntry := by
  intro s e no_moves at_idx attached short no_buffer following
  have runs := step_of_no_moves no_moves
  have follows {u : State} (cfg : u.cfg = s.cfg) (idx : u.idx = s.idx) (now : u.now = s.now)
      (scratch : u.scratch = none) : u.nextEntry = following u := by
    simp only [following, State.nextEntry_eq scratch, State.initReturned, cfg, idx, now]
  refine ⟨fun at_phase free accepting => ?_, fun x at_phase free refusing => ?_, fun r at_phase slot signal => ?_,
    fun r x at_phase slot signal => ?_, fun at_phase early => ?_, fun at_phase due => ?_⟩
  · have issued := (issuable_vendor e.opcode at_phase short attached free).exec_accepted accepting
    rw [runs, control_iIssue at_phase at_idx, issued]
    simp [State.sent, Transaction.prepared, Transaction.request, State.loaded, State.loadParams, frameHeader_eq,
      Panel.sending, at_phase, Phase.waitPhase]
  · have issued := (issuable_vendor e.opcode at_phase short attached free).exec_refused refusing
    refine ⟨_, (runs.trans (control_iIssue at_phase at_idx)).trans issued, ?_⟩
    rw [State.failTransaction_of_init _ _ (by simp [at_phase, Phase.isInit])]
    simp [Transaction.opcode]
  · rw [runs, control_iWait at_phase, stepInitWait_done at_idx slot signal,
      follows (u := s.received r .done) rfl rfl rfl no_buffer]
    rfl
  · refine ⟨_, (runs.trans (control_iWait at_phase)).trans (stepInitWait_failed at_idx slot signal), ?_⟩
    simp [State.received]
  · exact (runs.trans (control_iDelay at_phase)).trans (stepInitDelay_early at_idx early)
  · rw [runs, control_iDelay at_phase, stepInitDelay_over at_idx due, follows rfl rfl rfl no_buffer]

end Sys2Proof.Machine
end

section
/-! SUPPORT. The acceptance of a host operation: what INIT and FLUSH do in `IDLE`, and what they leave as it was
(41_init_sequencer.md R160 to R162, 44_flush_pipeline.md R220). -/

namespace Sys2Proof.Machine

/-! ## INIT -/

/-- INIT rejected for its null handle (41_init_sequencer.md R161). -/
def State.initRejected (rst : Bool) (s : State) : State :=
  { s.accept (.init rst none) with rstCfg := rst }.finish (.invalidArg .nullHandle)

/-- INIT started: the handle stored, and the reset pulse or the replay comes next (41_init_sequencer.md R160). -/
def State.initStarted (rst : Bool) (h : XHandle) (s : State) : State :=
  let t := { s.accept (.init rst (some h)) with rstCfg := rst, handle := some h, idx := 0 }
  if rst then t.startPulse else { t with panel := s.panel.abandon }.goto .iIssue

theorem exec_init_rejected {s : State} (rst : Bool) (idle : s.phase = .idle) :
    exec (.init rst none) s = .next (s.initRejected rst) := by
  simp only [exec, execInit, idle, ne_eq, not_true, if_false]
  rfl

theorem exec_init_started {s : State} (rst : Bool) (h : XHandle) (idle : s.phase = .idle) (wf : s.cfg.wf = true) :
    exec (.init rst (some h)) s = .next (s.initStarted rst h) := by
  simp [exec, execInit, idle, wf, State.initStarted]

/-- Everything INIT can do. -/
theorem exec_init_cases {s t : State} {rst : Bool} {x : Option XHandle} (h : exec (.init rst x) s = .next t) :
    t = s ∨ (x = none ∧ t = s.initRejected rst) ∨ ∃ hd, x = some hd ∧ t = s.initStarted rst hd := by
  by_cases idle : s.phase = .idle
  · cases x with
    | none => exact .inr (.inl ⟨rfl, by rw [exec_init_rejected rst idle] at h; cases h; rfl⟩)
    | some hd =>
      by_cases wf : s.cfg.wf = true
      · rw [exec_init_started rst hd idle wf] at h
        cases h
        exact .inr (.inr ⟨hd, rfl, rfl⟩)
      · simp [exec, execInit, idle, wf] at h
  · simp only [exec, execInit, idle, ne_eq, not_false_eq_true, if_true] at h
    cases h
    exact .inl rfl

/-- Settles O27: the rejection ends the operation at once; a start is the pulse or the replay. -/
theorem initStarts : Obligations.InitStarts := by
  intro s rst idle no_buffer
  refine ⟨(exec_init_rejected rst idle).trans ?_, fun h wf => ⟨(exec_init_started false h idle wf).trans rfl,
    (exec_init_started true h idle wf).trans rfl⟩⟩
  rw [State.initRejected, State.finish_eq]
  simp [State.accept, State.log, idle, no_buffer]

/-! ## The frame of the host operations -/

/-- Everything FLUSH can do. -/
theorem exec_flush_cases {s t : State} {w : Window} {src : Option (List Half)}
    (h : exec (flushOp w src) s = .next t) :
    t = s ∨ (∃ c, t = (s.accept (flushOp w src)).finish (.invalidArg c)) ∨ ∃ px, t = s.flushStarted w px := by
  by_cases idle : s.phase = .idle
  · simp only [flushOp, exec, execFlush, idle, ne_eq, not_true, if_false] at h
    split at h
    · rename_i c _
      cases h
      exact .inr (.inl ⟨c, rfl⟩)
    · rename_i valid
      cases src with
      | none => simp [flushCause] at valid
      | some px =>
        split at h
        · cases h
        · cases h
          exact .inr (.inr ⟨px, rfl⟩)
  · simp only [flushOp, exec, execFlush, idle, ne_eq, not_false_eq_true, if_true] at h
    cases h
    exact .inl rfl

/-- Settles O33: each of the ends of the two operations, field by field. -/
theorem hostOperationsFrame : Obligations.HostOperationsFrame := by
  intro i s t h
  cases i with
  | init rst x =>
    rcases exec_init_cases h with rfl | ⟨rfl, rfl⟩ | ⟨hd, rfl, rfl⟩
    · simp
    · simp [State.initRejected]
    · cases rst <;> simp [State.initStarted, State.startPulse]
  | flush x0 y0 x1 y1 src =>
    rcases exec_flush_cases (w := ⟨x0, y0, x1, y1⟩) h with rfl | ⟨c, rfl⟩ | ⟨px, rfl⟩
    · simp
    · simp
    · simp [State.flushStarted]
  | _ => simp

/-! ## What a step fetches -/

/-- In `IDLE` the controller runs what waits at the host port (10_state.md R43). -/
theorem control_idle {s : State} {p : HostPort} (idle : s.phase = .idle) (waiting : s.hostPort = some p) :
    control s = exec (decodeHost p) s := by
  simp only [control, State.fetch, idle, waiting]

/-- A table of this block ends in its terminal entries (41_init_sequencer.md R167). -/
theorem Config.terminal_of_wf {c : Config} (h : c.wf = true) :
    (c.initTable.drop (c.initTable.length - 6)).map CommandEntry.opcode =
      [c.opColmod, c.opMadctl, c.opTeon, c.opInvon, c.opSlpout, c.opDispon] := by
  simp only [Config.wf, Config.tableTerminalOk, Bool.and_eq_true, beq_iff_eq] at h
  obtain ⟨⟨-, terminal⟩, -⟩ := h
  exact terminal

/-- Such a table has room for them. -/
theorem Config.six_le_length_of_wf {c : Config} (h : c.wf = true) : 6 ≤ c.initTable.length := by
  have := congrArg List.length (Config.terminal_of_wf h)
  simp only [List.length_map, List.length_drop, List.length_cons, List.length_nil] at this
  omega

/-- The opcode of the terminal entry in role `k`. -/
theorem Config.terminal_opcode {c : Config} {i k : Nat} {e : CommandEntry} (h : c.wf = true)
    (at_i : c.initTable[i]? = some e) (place : i + 6 = c.initTable.length + k) :
    [c.opColmod, c.opMadctl, c.opTeon, c.opInvon, c.opSlpout, c.opDispon][k]? = some e.opcode := by
  have long := Config.six_le_length_of_wf h
  rw [← Config.terminal_of_wf h, List.getElem?_map, List.getElem?_drop,
    show c.initTable.length - 6 + k = i by omega, at_i]
  rfl

/-- Settles O34: the controller moves, and runs what its phase fetches; a terminal entry has the opcode of its role. -/
theorem stepRunsFetchedOperation : Obligations.StepRunsFetchedOperation := by
  intro s u moves
  obtain ⟨ms, rfl, runs⟩ : ∃ ms, u = s.withMoves ms ∧ step s = control (s.withMoves ms) := by
    rcases moves with ⟨none_left, rfl⟩ | ⟨ms, block, rfl⟩
    · exact ⟨[], by rw [← none_left]; rfl, by rw [step_of_no_moves none_left, ← none_left]; rfl⟩
    · exact ⟨ms, rfl, by rw [step, block]; rfl⟩
  have host {p : HostPort} (idle : s.phase = .idle) (waiting : s.hostPort = some p) :
      step s = exec (decodeHost p) (s.withMoves ms) := runs.trans (control_idle idle waiting)
  refine ⟨fun p i idle waiting decoded => ?_, fun p rst x idle waiting lines => ?_,
    fun p x0 y0 x1 y1 src idle waiting lines => ?_, fun e at_phase at_idx wf => ?_, fun at_phase => ?_, fun at_phase => ?_,
    fun b at_phase held => ⟨fun opcode => ?_, fun opcode => ?_⟩⟩
  · cases decoded
    exact host idle waiting
  · cases lines
    exact host idle waiting
  · cases lines
    exact host idle waiting
  · have entry {op : Byte} (same : op = e.opcode) : step s = initEntry op e.parameters (s.withMoves ms) := by
      rw [runs, same]
      exact control_iIssue at_phase at_idx
    have role (k : Nat) (place : s.idx + 6 = s.cfg.initTable.length + k) := Config.terminal_opcode wf at_idx place
    exact ⟨fun _ => entry rfl, fun place => entry (Option.some.inj (role 0 place)),
      fun place => entry (Option.some.inj (role 1 (by omega))), fun place => entry (Option.some.inj (role 2 (by omega))),
      fun place => entry (Option.some.inj (role 3 (by omega))), fun place => entry (Option.some.inj (role 4 (by omega))),
      fun place => entry (Option.some.inj (role 5 (by omega)))⟩
  · rw [runs]
    simp only [control, State.fetch, State.withMoves, at_phase]
  · rw [runs]
    simp only [control, State.fetch, State.withMoves, at_phase]
  · rw [runs]
    simp only [control, State.fetch, State.withMoves, at_phase, held, opcode]
    rfl
  · rw [runs]
    simp only [control, State.fetch, State.withMoves, at_phase, held, opcode]
    rfl

end Sys2Proof.Machine
end

section
/-! SUPPORT. A whole INIT under a cooperating environment: the reset pulse, then the replay of the table, entry by entry
(41_init_sequencer.md R162 to R165, 20_memory.md R80, R82). -/

namespace Sys2Proof.Machine

/-! ## The reset pulse -/

/-- The clock advances by `d`, then the controller moves. -/
theorem run_clock_block {s t : State} (d : Nat) (ms : List Move)
    (h : control ({ s with now := s.now + d }.withMoves ms) = .next t) :
    run 2 (s.withMoves (.clock d :: .block :: ms)) = .next t :=
  run_trans (m := 1) (n := 1) (run_one (t := { s with now := s.now + d }.withMoves (.block :: ms)) rfl)
    (run_one ((step_block ms _).trans h))

/-- The reset line driven high after exactly its time at low. -/
def State.lineRaised (s : State) : State :=
  ({ s with now := s.now + s.cfg.tRstLow }.driveRst .high).markTime.goto .iRstSettle

/-- The reset pulse over, its settle time exactly waited. -/
def State.pulsed (s : State) : State :=
  { s.lineRaised with now := s.now + s.cfg.tRstLow + s.cfg.tRstSettle }.goto .iIssue

/-- The pulse, from the line's fall to the replay (41_init_sequencer.md R162). -/
theorem run_pulse {s : State} (at_phase : s.phase = .iRstLow) (marked : s.tMark = s.now) (ms : List Move) :
    run 4 (s.withMoves (.clock s.cfg.tRstLow :: .block :: .clock s.cfg.tRstSettle :: .block :: ms)) =
      .next (s.pulsed.withMoves ms) := by
  have low (ms : List Move) :
      run 2 (s.withMoves (.clock s.cfg.tRstLow :: .block :: ms)) = .next (s.lineRaised.withMoves ms) :=
    run_clock_block _ ms
      ((control_iRstLow (by exact at_phase)).trans (stepRstLow_over (by simp [State.withMoves, marked])))
  have settle : run 2 (s.lineRaised.withMoves (.clock s.cfg.tRstSettle :: .block :: ms)) =
      .next (s.pulsed.withMoves ms) :=
    run_clock_block _ ms ((control_iRstSettle rfl).trans (stepRstSettle_over (Nat.le_refl _)))
  exact run_trans (low _) settle

/-! ## One entry -/

/-- The replay has the entries `es` before it, and an environment that lets it go on. -/
structure State.Replaying (es : List CommandEntry) (s : State) : Prop where
  at_phase  : s.phase = .iIssue
  together  : s.Cooperating
  no_buffer : s.scratch = none
  remaining : s.cfg.initTable.drop s.idx = es
  short     : ∀ e ∈ es, e.parameters.length ≤ maxParams

/-- The first of them is the one at `idx`. -/
theorem State.Replaying.entry {e : CommandEntry} {es : List CommandEntry} {s : State} (h : s.Replaying (e :: es)) :
    s.entry = some e := by
  have first := congrArg (·[0]?) h.remaining
  simpa [State.entry] using first

/-- They are the rest of the table. -/
theorem State.Replaying.length {es : List CommandEntry} {s : State} (h : s.Replaying es) :
    s.cfg.initTable.length - s.idx = es.length := by
  rw [← h.remaining, List.length_drop]

/-- The request of the entry `e` accepted, and its completion signalled at once. -/
def State.entrySent (e : CommandEntry) (s : State) : State :=
  let t := (s.loaded e.opcode e.parameters).sent (frameHeader s.cfg.markerCmd e.opcode) (entryReq s.cfg e)
  { t with completion := some .done, panel := t.panel.receive s.cfg (entryReq s.cfg e) s.now }

/-- The issue step of an entry and the completion of its request. -/
theorem State.Replaying.run_entrySent {e : CommandEntry} {es : List CommandEntry} {s : State}
    (h : s.Replaying (e :: es)) (ms : List Move) :
    run 2 (s.withMoves (.block :: .complete .done :: ms)) = .next ((s.entrySent e).withMoves ms) := by
  have issue (ms : List Move) : Issuable (.vendor e.opcode e.parameters) _ (s.withMoves ms) :=
    issuable_vendor e.opcode h.at_phase (h.short e List.mem_cons_self) h.together.attached h.together.free
  have issued (ms : List Move) :=
    (control_iIssue (s := s.withMoves ms) h.at_phase h.entry).trans ((issue ms).exec_accepted h.together.accepting)
  exact run_trans (m := 1) (n := 1) (run_one ((step_block _ s).trans (issued _)))
    (run_one (step_complete (s := (s.loaded e.opcode e.parameters).sent _ (entryReq s.cfg e)) .done ms rfl
      h.together.quiet))

/-- The entry `e` done: its request carried out. -/
def State.entryDone (e : CommandEntry) (s : State) : State :=
  (s.loaded e.opcode e.parameters).carried (entryReq s.cfg e)

/-- Exactly the post-delay `d` waited, if there is one. -/
def State.delayed (d : Nat) (s : State) : State :=
  if d ≠ 0 then { s.markTime.goto .iDelay with now := s.now + d } else s

/-- The wait, field by field. -/
theorem State.delayed_eq (d : Nat) (s : State) :
    s.delayed d =
      { s with
        now := s.now + d
        tMark := if d ≠ 0 then s.now else s.tMark
        phase := if d ≠ 0 then .iDelay else s.phase } := by
  unfold State.delayed
  split
  · simp [State.markTime, State.goto]
  · rename_i none_left
    rw [not_not.1 none_left]
    rfl

/-- The entry `e` done and its post-delay waited, the step past it still to come. -/
def State.entryWaited (e : CommandEntry) (s : State) : State := (s.entryDone e).delayed e.postDelay

/-- The post-delay of an entry, exactly waited, from its start to the step past the entry (41_init_sequencer.md R163). -/
theorem run_delay {s : State} {e : CommandEntry} (at_idx : s.entry = some e) (ms : List Move) :
    run 2 ((s.markTime.goto .iDelay).withMoves (.clock e.postDelay :: .block :: ms)) =
      .next ({ s.markTime.goto .iDelay with now := s.now + e.postDelay }.withMoves ms).nextEntry :=
  run_clock_block (s := s.markTime.goto .iDelay) _ ms
    ((control_iDelay rfl).trans (stepInitDelay_over at_idx (Nat.le_refl _)))

/-- The script of one entry, step past it included (41_init_sequencer.md R164). -/
theorem State.Replaying.run_entry {e : CommandEntry} {es : List CommandEntry} {s : State} (h : s.Replaying (e :: es))
    (ms : List Move) :
    run (entryScript e).length (s.withMoves (entryScript e ++ ms)) =
      .next ((s.entryWaited e).withMoves ms).nextEntry := by
  have at_idx : (s.entryDone e).entry = some e := h.entry
  have completes (ms : List Move) :=
    (control_iWait (s := (s.entrySent e).withMoves ms) (congrArg Phase.waitPhase h.at_phase)).trans
      (stepInitWait_done h.entry rfl rfl)
  by_cases delay : e.postDelay ≠ 0
  · have started (ms : List Move) : run 1 ((s.entrySent e).withMoves (.block :: ms)) =
        .next (((s.entryDone e).markTime.goto .iDelay).withMoves ms) :=
      run_one ((step_block ms _).trans ((completes ms).trans (by rw [if_pos delay]; rfl)))
    simp only [entryScript, State.entryWaited, State.delayed, if_pos delay]
    exact run_trans (m := 2) (n := 3) (h.run_entrySent _) (run_trans (m := 1) (n := 2) (started _) (run_delay at_idx ms))
  · simp only [entryScript, State.entryWaited, State.delayed, if_neg delay]
    exact run_trans (m := 2) (n := 1) (h.run_entrySent _)
      (run_one ((step_block ms _).trans ((completes ms).trans (by rw [if_neg delay]; rfl))))

/-! ## The replay -/

/-- The entries `es` replayed from `s`, the next to be issued. The registers that they use and the observer's panel are
those of `w`. -/
def State.advanced (es : List CommandEntry) (s w : State) : State :=
  { s with
    phase := .iIssue
    idx := s.idx + es.length
    now := s.now + replayTime es
    inflight := none
    completion := none
    hdr := w.hdr
    pbuf := w.pbuf
    plen := w.plen
    tMark := w.tMark
    panel := w.panel
    trace := (replayEvents s.cfg es s.now).reverse ++ s.trace }

/-- One entry, and then the others. -/
theorem State.advanced_cons (e : CommandEntry) (es : List CommandEntry) (s v w : State) :
    (s.advanced [e] v).advanced es w = s.advanced (e :: es) w := by
  simp [State.advanced, replayTime, replayEvents, Nat.add_assoc, Nat.add_comm, Nat.add_left_comm]

/-- An entry replayed: the entry waited for, the index moved on, the next to be issued. -/
theorem State.advanced_one (e : CommandEntry) (s : State) :
    s.advanced [e] (s.entryWaited e) =
      { s.entryWaited e with idx := s.idx + 1, phase := .iIssue } := by
  simp [State.entryWaited, State.delayed_eq, State.advanced, State.entryDone, State.carried, State.loaded,
    State.loadParams, replayTime, replayEvents]

/-- The step past an entry: the next is issued, or past the last one INIT returns (41_init_sequencer.md R164). -/
theorem State.Replaying.nextEntry_eq {e : CommandEntry} {es : List CommandEntry} {s : State}
    (h : s.Replaying (e :: es)) (ms : List Move) :
    ((s.entryWaited e).withMoves ms).nextEntry =
      if es ≠ [] then (s.advanced [e] (s.entryWaited e)).withMoves ms
      else (s.advanced [e] (s.entryWaited e)).initReturned.withMoves ms := by
  obtain ⟨t, ht⟩ : ∃ t, t = s.entryWaited e := ⟨_, rfl⟩
  have kept : t.scratch = none ∧ t.idx = s.idx ∧ t.cfg = s.cfg := by
    simp [ht, State.entryWaited, State.delayed_eq, State.entryDone, State.carried, State.loaded, State.loadParams,
      h.no_buffer]
  obtain ⟨scratch, idx, cfg⟩ := kept
  have length : s.cfg.initTable.length - s.idx = es.length + 1 := h.length
  have more : t.idx + 1 < t.cfg.initTable.length ↔ es ≠ [] := by
    rw [idx, cfg, ← List.length_pos_iff]
    omega
  rw [State.advanced_one, ← ht, ← idx, State.nextEntry_eq (s := t.withMoves ms) scratch]
  exact if_congr more rfl rfl

/-- One entry sent, the replay has the others before it. -/
theorem State.Replaying.advanced {e : CommandEntry} {es : List CommandEntry} {s : State} (h : s.Replaying (e :: es))
    (w : State) : (s.advanced [e] w).Replaying es where
  at_phase := rfl
  together := ⟨h.together.attached, rfl, rfl, h.together.accepting⟩
  no_buffer := h.no_buffer
  remaining := by
    show s.cfg.initTable.drop (s.idx + 1) = es
    rw [← List.drop_drop, h.remaining]
    rfl
  short := fun f hf => h.short f (List.mem_cons_of_mem _ hf)

/-- The replay of the rest of the table, to INIT's return. -/
theorem State.Replaying.run_replay {e : CommandEntry} {es : List CommandEntry} {s : State} (h : s.Replaying (e :: es))
    (ms : List Move) :
    ∃ w, run ((e :: es).flatMap entryScript).length (s.withMoves ((e :: es).flatMap entryScript ++ ms)) =
      .next ((s.advanced (e :: es) w).initReturned.withMoves ms) := by
  induction es generalizing e s with
  | nil =>
    have ran := h.run_entry ms
    rw [h.nextEntry_eq, if_neg (not_not_intro rfl)] at ran
    exact ⟨s.entryWaited e, by simpa using ran⟩
  | cons f es ih =>
    have ran := h.run_entry ((f :: es).flatMap entryScript ++ ms)
    rw [h.nextEntry_eq, if_pos (List.cons_ne_nil f es)] at ran
    obtain ⟨w, rest⟩ := ih (h.advanced (s.entryWaited e))
    rw [State.advanced_cons] at rest
    refine ⟨w, ?_⟩
    rw [List.flatMap_cons, List.length_append, List.append_assoc]
    exact run_trans ran rest

/-! ## The whole INIT -/

/-- A table of this block fits the parameter buffer (41_init_sequencer.md R166 W1). -/
theorem Config.short_of_wf {c : Config} (h : c.wf = true) : ∀ e ∈ c.initTable, e.parameters.length ≤ maxParams := by
  simp only [Config.wf, Config.tableParamsOk, Bool.and_eq_true, List.all_eq_true, decide_eq_true_eq] at h
  obtain ⟨⟨⟨-, short⟩, -⟩, -⟩ := h
  exact short

/-- INIT at the replay of its table, after the pulse if there is one. -/
def State.replayStart (rst : Bool) (h : XHandle) (s : State) : State :=
  if rst then (s.initStarted true h).pulsed else s.initStarted false h

/-- From the acceptance to the replay: the pulse, or nothing. -/
theorem run_replayStart (rst : Bool) (h : XHandle) (s : State) (ms : List Move) :
    let pulse := if rst then [.clock s.cfg.tRstLow, .block, .clock s.cfg.tRstSettle, .block] else []
    run pulse.length ((s.initStarted rst h).withMoves (pulse ++ ms)) = .next ((s.replayStart rst h).withMoves ms) := by
  cases rst with
  | false => rfl
  | true => exact run_pulse rfl rfl ms

/-- At the start of the replay the whole table is to come. -/
theorem State.replaying_replayStart (rst : Bool) (h : XHandle) {s : State} (free : s.inflight = none)
    (quiet : s.completion = none) (no_buffer : s.scratch = none) (accepting : s.submitAns = .accepted)
    (wf : s.cfg.wf = true) : (s.replayStart rst h).Replaying s.cfg.initTable := by
  cases rst
  all_goals exact ⟨rfl, ⟨Option.some_ne_none h, free, quiet, accepting⟩, no_buffer, rfl, Config.short_of_wf wf⟩

/-- Settles O43: the acceptance, the pulse if there is one, then the replay of the whole table, which is not empty. -/
theorem initRunsToOk : Obligations.InitRunsToOk := by
  intro s rst h rest idle free quiet no_buffer accepting wf script start stop
  have replaying := State.replaying_replayStart rst h free quiet no_buffer accepting wf
  have long := Config.six_le_length_of_wf wf
  obtain ⟨e, es, table⟩ : ∃ e es, s.cfg.initTable = e :: es := List.exists_cons_of_length_pos (by omega)
  have accepted : s.initStarted rst h = (s.initStarted rst h).withMoves (initScript s.cfg rst ++ rest) := by
    rw [← script]
    cases rst <;> rfl
  obtain ⟨w, replayed⟩ := State.Replaying.run_replay (table ▸ replaying) rest
  rw [← table] at replayed
  refine ⟨_, ((s.replayStart rst h).advanced s.cfg.initTable w).initReturned.withMoves rest,
    exec_init_started rst h idle wf, ?_, ?_⟩
  · rw [accepted, initScript, List.append_assoc, List.length_append]
    exact run_trans (run_replayStart rst h s _) replayed
  · cases rst <;>
      simp [start, stop, State.withMoves, State.initReturned, State.advanced, State.replayStart, State.initStarted,
        State.startPulse, State.pulsed, State.lineRaised, pulseEvents, no_buffer]

end Sys2Proof.Machine
end

section
/-! SUPPORT. The address sets that are accepted (42_address_window.md R193, R194). -/

namespace Sys2Proof.Machine

/-- Settles O21: either address set is the command write of its side's payload, and the request is accepted; the header's
address and the payload in bytes. -/
theorem addressSetsSend : Obligations.AddressSetsSend := by
  intro s a b side attached free accepting bytes loaded
  have payload : bytes = sidePayload a b := rfl
  have wf : decide (a.toNat < b.toNat) = true := decide_eq_true side
  simp only [← frameHeader_eq, loaded, payload]
  refine ⟨fun at_phase => ?_, fun at_phase => ?_⟩
  · have issue : Issuable (.caset a b) (.command s.cfg.opCaset (sidePayload a b)) s :=
      ⟨rfl, List.mem_singleton.2 at_phase, wf, trivial, attached, free⟩
    exact issue.exec_accepted accepting
  · have issue : Issuable (.raset a b) (.command s.cfg.opRaset (sidePayload a b)) s :=
      ⟨rfl, List.mem_singleton.2 at_phase, wf, trivial, attached, free⟩
    exact issue.exec_accepted accepting

end Sys2Proof.Machine
end

section
/-! SUPPORT. The colour permutation by fields, and one correction step (43_color_permutation.md R205, R210). -/

namespace Sys2Proof

/-! ## The fields of a corrected word -/

/-- Red with a zero below it is red shifted left in six bits. -/
theorem setWidth_shiftLeft_one (r : BitVec 5) : r.setWidth 6 <<< 1 = r ++ 0#1 := by
  rw [BitVec.append_def, BitVec.shiftLeftZeroExtend_eq]
  simp

@[simp] theorem red_perm (v : Half) : red (perm v) = blue v := red_rgb565 _ _ _

@[simp] theorem green_perm (v : Half) : green (perm v) = red v ++ 0#1 :=
  (green_rgb565 _ _ _).trans (setWidth_shiftLeft_one (red v))

@[simp] theorem blue_perm (v : Half) : blue (perm v) = (green v).extractLsb' 1 5 :=
  (blue_rgb565 _ _ _).trans BitVec.setWidth_ushiftRight_eq_extractLsb

/-- Settles O10: the three fields, green and blue as numbers, and pure red. -/
theorem permFields : Obligations.PermFields := by
  refine ⟨fun v => ⟨red_perm v, green_perm v, blue_perm v, ?_, ?_⟩, by decide⟩
  · rw [green_perm, BitVec.toNat_append, Nat.shiftLeft_eq]
    simp [Nat.mul_comm]
  · rw [blue_perm, BitVec.extractLsb'_toNat, Nat.shiftRight_eq_div_pow]
    have := (green v).isLt
    omega

namespace Machine

/-! ## The bytes of the scratch buffer after a write -/

/-- A byte that was written reads as written. -/
theorem Scratch.read_write_of_getElem? (b : Scratch) {vs : List Byte} {j : Nat} {v : Byte} (a : Nat)
    (written : vs[j]? = some v) : (b.write a vs).read (a + j) = v := by
  obtain ⟨inside, rfl⟩ := List.getElem?_eq_some_iff.1 written
  simp [Scratch.read, Scratch.write, Memory.read_writeList, inside]

/-- Every byte outside the written ones reads as before. -/
theorem Scratch.read_write_outside (b : Scratch) (vs : List Byte) {a i : Nat} (outside : i < a ∨ a + vs.length ≤ i) :
    (b.write a vs).read i = b.read i := by
  have other : ¬ (a ≤ i ∧ i < a + vs.length) := by omega
  simp [Scratch.read, Scratch.write, Memory.read_writeList, other]

/-! ## The correction step -/

/-- The correction phase. -/
theorem control_fPerm {s : State} (at_phase : s.phase = .fPerm) : control s = stepPerm s := by
  simp only [control, State.fetch, State.proceed, at_phase]

theorem stepPerm_done {s : State} (done : s.win.npix ≤ s.pcount) : stepPerm s = .next (s.goto .fPixIssue) :=
  if_pos done

/-- The next pixel corrected into its place in the buffer. -/
theorem stepPerm_more {s : State} {px : List Half} {v : Half} {b : Scratch} (more : s.pcount < s.win.npix)
    (source : s.src = some px) (pixel : px[s.pcount]? = some v) (held : s.scratch = some b)
    (room : 2 * s.pcount + 2 ≤ b.size) :
    stepPerm s = .next { s with
      px := v
      scratch := some (b.write (2 * s.pcount) (pixelBytes s.cfg.pixOrder (perm v)))
      pcount := s.pcount + 1 } := by
  simp [stepPerm, State.srcRead, source, pixel, held, Nat.not_le.2 more, Nat.not_lt.2 room]

/-- Settles O41: the step is the correction of one pixel, or the end of the correction; what the buffer reads as after it
follows from the two rules about a write. -/
theorem permbufStep : Obligations.PermbufStep := by
  intro s b no_moves at_phase held
  have runs : step s = stepPerm s := (step_of_no_moves no_moves).trans (control_fPerm at_phase)
  refine ⟨fun done => runs.trans (stepPerm_done done.ge), fun px v more source pixel size =>
    ⟨_, runs.trans (stepPerm_more more source pixel held (by omega)), rfl, fun order => ?_,
      fun order => ?_, fun a even odd => ?_⟩⟩
  · rw [order]
    exact ⟨b.read_write_of_getElem? (j := 0) _ rfl, b.read_write_of_getElem? (j := 1) _ rfl⟩
  · rw [order]
    exact ⟨b.read_write_of_getElem? (j := 0) _ rfl, b.read_write_of_getElem? (j := 1) _ rfl⟩
  · exact b.read_write_outside _ (by rw [pixelBytes_length]; omega)

end Machine

end Sys2Proof
end

section
/-! SUPPORT. The validation of a FLUSH, its start and its rejection, the allocation, and the whole FLUSH field by field
(44_flush_pipeline.md R220 to R228). -/

namespace Sys2Proof.Machine

/-! ## The causes of a window and a buffer -/

/-- A window without area, before any other cause (44_flush_pipeline.md R222). -/
theorem windowCause_of_zeroArea {c : Config} {w : Window} {px : List Half}
    (empty : w.x1.toNat ≤ w.x0.toNat ∨ w.y1.toNat ≤ w.y0.toNat) : windowCause c w px = some .zeroArea :=
  if_pos (by simpa [Window.zeroArea] using empty)

/-- A window with area has another cause, if it has one. -/
theorem windowCause_of_area {c : Config} {w : Window} {px : List Half} (columns : w.x0.toNat < w.x1.toNat)
    (rows : w.y0.toNat < w.y1.toNat) :
    windowCause c w px =
      if w.outOfPanel c then some .outOfPanel else if px.length ≠ w.npix then some .lenMismatch else none :=
  if_neg (by simp [Window.zeroArea, columns, rows])

/-- A window that FLUSH accepts has a pixel to send. -/
theorem ne_nil_of_windowCause {c : Config} {w : Window} {px : List Half} (valid : windowCause c w px = none) :
    px ≠ [] := by
  obtain ⟨⟨columns, rows⟩, -, npix⟩ := windowCause_eq_none.1 valid
  refine List.ne_nil_of_length_pos ?_
  rw [npix]
  exact Nat.mul_pos (Nat.sub_pos_of_lt columns) (Nat.sub_pos_of_lt rows)

/-! ## The validation of a FLUSH -/

/-- No handle or no buffer, before any other cause (44_flush_pipeline.md R221). -/
theorem flushCause_of_null {s : State} {w : Window} {src : Option (List Half)} (null : s.handle = none ∨ src = none) :
    flushCause s w src = some .nullHandle := by
  rcases null with h | rfl
  · simp [flushCause, h]
  · simp [flushCause]

/-- A FLUSH in order: it has a handle and a buffer, and its window and buffer have no cause. -/
theorem flushCause_eq_none {s : State} {w : Window} {src : Option (List Half)} :
    flushCause s w src = none ↔ s.handle ≠ none ∧ ∃ px, src = some px ∧ windowCause s.cfg w px = none := by
  by_cases attached : s.handle = none
  · simp [flushCause_of_null (.inl attached), attached]
  · cases src with
    | none => simp [flushCause_of_null]
    | some px => simp [flushCause_of_handle w px attached, attached]

/-- A FLUSH with a cause is accepted and returns that cause at once. -/
theorem exec_flush_rejected {s : State} {w : Window} {src : Option (List Half)} {c : Cause} (idle : s.phase = .idle)
    (cause : flushCause s w src = some c) :
    exec (flushOp w src) s = .next ((s.accept (flushOp w src)).finish (.invalidArg c)) := by
  simp only [flushOp, exec, execFlush, idle, ne_eq, not_true, if_false, cause]
  rfl

/-- A FLUSH in order, within the transport's maximum, starts. -/
theorem exec_flush_started {s : State} {w : Window} {px : List Half} (idle : s.phase = .idle)
    (attached : s.handle ≠ none) (valid : windowCause s.cfg w px = none) (fits : 2 * px.length ≤ s.cfg.maxXferBytes) :
    exec (flushOp w (some px)) s = .next (s.flushStarted w px) := by
  obtain ⟨-, -, npix⟩ := windowCause_eq_none.1 valid
  have cause : flushCause s w (some px) = none := flushCause_eq_none.2 ⟨attached, px, rfl, valid⟩
  have room : ¬ s.cfg.maxXferBytes < 2 * w.npix := by omega
  simp only [flushOp, exec, execFlush, idle, ne_eq, not_true, if_false, cause, room]
  rfl

/-- A FLUSH that leaves `IDLE` is in order, and has latched its window. -/
theorem exec_flush_busy {s t : State} {w : Window} {src : Option (List Half)} (idle : s.phase = .idle)
    (next : exec (flushOp w src) s = .next t) (busy : t.phase ≠ .idle) : flushCause s w src = none ∧ t.win = w := by
  constructor
  · cases cause : flushCause s w src with
    | none => rfl
    | some c =>
      rw [exec_flush_rejected idle cause] at next
      cases next
      simp at busy
  · rcases exec_flush_cases next with rfl | ⟨c, rfl⟩ | ⟨px, rfl⟩
    · exact absurd idle busy
    · simp at busy
    · rfl

/-- Settles O28: such arguments have no cause, and a FLUSH in order starts. -/
theorem flushStarts : Obligations.FlushStarts := by
  intro s x0 y0 x1 y1 px idle attached columns rows right bottom npix fits
  have valid : windowCause s.cfg ⟨x0, y0, x1, y1⟩ px = none :=
    windowCause_eq_none.2 ⟨⟨columns, rows⟩, ⟨right, bottom⟩, npix⟩
  exact (exec_flush_started (w := ⟨x0, y0, x1, y1⟩) idle attached valid fits).trans rfl

/-- Settles O29: the cause named is the first that applies, and FLUSH returns it; a FLUSH that goes on has none. -/
theorem flushRejectsInvalidArguments : Obligations.FlushRejectsInvalidArguments := by
  refine ⟨fun s x0 y0 x1 y1 src cause idle no_buffer why => ?_, fun s t x0 y0 x1 y1 src idle next busy => ?_⟩
  · have first : flushCause s ⟨x0, y0, x1, y1⟩ src = some cause := by
      rcases why with ⟨rfl, null⟩ | ⟨px, attached, rfl, why⟩
      · exact flushCause_of_null null
      rw [flushCause_of_handle _ px attached]
      rcases why with ⟨rfl, empty⟩ | ⟨columns, rows, why⟩
      · exact windowCause_of_zeroArea empty
      rw [windowCause_of_area columns rows]
      rcases why with ⟨rfl, outside⟩ | ⟨rfl, right, bottom, length⟩
      · exact if_pos (by simpa [Window.outOfPanel] using outside)
      · rw [if_neg (by simp [Window.outOfPanel, right, bottom])]
        exact if_pos length
    refine (exec_flush_rejected idle first).trans ?_
    rw [State.finish_eq]
    simp [State.accept, State.log, flushOp, idle, no_buffer]
  · obtain ⟨in_order, win⟩ := exec_flush_busy (w := ⟨x0, y0, x1, y1⟩) idle next busy
    obtain ⟨-, px, -, valid⟩ := flushCause_eq_none.1 in_order
    obtain ⟨⟨columns, rows⟩, ⟨right, bottom⟩, -⟩ := windowCause_eq_none.1 valid
    exact ⟨win, columns, right, rows, bottom⟩

/-! ## The allocation -/

/-- The allocation phase. -/
theorem control_fAlloc {s : State} (at_phase : s.phase = .fAlloc) : control s = stepAlloc s := by
  simp only [control, State.fetch, State.proceed, at_phase]

/-- The buffer granted: the correction comes next. -/
theorem stepAlloc_granted {s : State} (granting : s.allocAns = .ok) : stepAlloc s = .next s.allocated := by
  simp only [stepAlloc, granting]
  rfl

/-- The buffer not granted: FLUSH fails. -/
theorem stepAlloc_noMem {s : State} (denied : s.allocAns = .noMem) :
    stepAlloc s = .next ((s.log (.allocated (2 * s.win.npix) .noMem)).finish .allocFail) := by
  simp only [stepAlloc, denied]
  rfl

/-- Settles O40: the allocation's step under each of the allocator's answers. -/
theorem allocationStep : Obligations.AllocationStep := by
  intro s no_moves at_phase no_buffer n
  have runs : step s = stepAlloc s := (step_of_no_moves no_moves).trans (control_fAlloc at_phase)
  refine ⟨fun granting => runs.trans (stepAlloc_granted granting), fun denied => ?_⟩
  rw [runs, stepAlloc_noMem denied, State.finish_eq]
  simp only [State.log, no_buffer]
  rfl

/-! ## The whole FLUSH -/

/-- Settles O44: the FLUSH runs to the state `flushed`, whose fields are those said; it has a last pixel, since its window
has area. -/
theorem flushRunsToOk : Obligations.FlushRunsToOk := by
  intro s w px rest idle attached free quiet _ accepting granting wf valid fits script
  have ready : s.FlushReady w px rest := ⟨idle, ⟨attached, free, quiet, accepting⟩, granting, wf, valid, fits, script⟩
  obtain ⟨v, last⟩ : ∃ v, px.getLast? = some v :=
    ⟨_, List.getLast?_eq_some_getLast (ne_nil_of_windowCause valid)⟩
  exact ⟨_, _, ready.exec_flush, ready.run_flush, by simp [State.flushed, last, frameHeader_eq]⟩

end Sys2Proof.Machine
end

section
/-! SUPPORT. How a step ends a host operation, said once; the state that the end leaves, and the result that its trace
calls for (60_exceptions.md R245 to R249, 41_init_sequencer.md R164 to R168, 44_flush_pipeline.md R229). -/

namespace Sys2Proof.Machine

/-! ## The ends of an operation -/

/-- INIT fails on a table entry: `init_status`, and the panel left undefined (41_init_sequencer.md R168). -/
def State.initFailed (s : State) : State := { s with initStatus := .failed, panel := s.panel.abandon }

/-- INIT is past the last entry (41_init_sequencer.md R164). -/
def State.tableDone (s : State) : State := { s with idx := s.idx + 1, initStatus := .ok }

/-- `Ending s u r`: from `s` the controller ends the host operation with result `r`, in the state `u.finish r`. -/
inductive Ending (s : State) : State → Result → Prop where
  | initRejected (rst : Bool) (idle : s.phase = .idle) :
      Ending s { s.accept (.init rst none) with rstCfg := rst } (.invalidArg .nullHandle)
  | flushRejected (w : Window) (src : Option (List Half)) (c : Cause) (idle : s.phase = .idle)
      (why : flushCause s w src = some c) :
      Ending s (s.accept (flushOp w src)) (.invalidArg c)
  | entryRefused (e : CommandEntry) (x : XErr) (at_phase : s.phase = .iIssue) (at_idx : s.entry = some e) :
      Ending s ((s.loaded e.opcode e.parameters).log (.submitted (entryReq s.cfg e) (.refused x) s.now)).initFailed
        (.initSeqFail s.idx e.opcode x)
  | entryFailed (e : CommandEntry) (r : Req) (x : XErr) (at_phase : s.phase = .iWait) (at_idx : s.entry = some e)
      (slot : s.inflight = some r) :
      Ending s (s.received r (.failed x)).initFailed (.initSeqFail s.idx e.opcode x)
  | entryDone (e : CommandEntry) (r : Req) (at_phase : s.phase = .iWait) (at_idx : s.entry = some e)
      (slot : s.inflight = some r) (none_left : e.postDelay = 0) (last : s.cfg.initTable.length ≤ s.idx + 1) :
      Ending s (s.received r .done).tableDone .ok
  | delayOver (e : CommandEntry) (at_phase : s.phase = .iDelay) (at_idx : s.entry = some e)
      (floor : s.tMark + e.postDelay ≤ s.now) (last : s.cfg.initTable.length ≤ s.idx + 1) :
      Ending s s.tableDone .ok
  | casetRefused (x : XErr) (at_phase : s.phase = .fCasetIssue) :
      Ending s ((s.loaded s.cfg.opCaset (sidePayload s.win.x0 s.win.x1)).log
        (.submitted (casetReq s.cfg s.win) (.refused x) s.now)) (.xportFail x)
  | rasetRefused (x : XErr) (at_phase : s.phase = .fRasetIssue) :
      Ending s ((s.loaded s.cfg.opRaset (sidePayload s.win.y0 s.win.y1)).log
        (.submitted (rasetReq s.cfg s.win) (.refused x) s.now)) (.xportFail x)
  | pixelsRefused (b : Scratch) (x : XErr) (at_phase : s.phase = .fPixIssue) (held : s.scratch = some b) :
      Ending s ((s.headed s.cfg.opPixwr).log
        (.submitted (colorReq s.cfg s.cfg.opPixwr b.payload) (.refused x) s.now)) (.xportFail x)
  | transactionFailed (r : Req) (x : XErr)
      (at_phase : s.phase = .fCasetWait ∨ s.phase = .fRasetWait ∨ s.phase = .fPixWait) (slot : s.inflight = some r) :
      Ending s (s.received r (.failed x)) (.xportFail x)
  | denied (at_phase : s.phase = .fAlloc) :
      Ending s (s.log (.allocated (2 * s.win.npix) .noMem)) .allocFail
  | pixelsDone (r : Req) (at_phase : s.phase = .fPixWait) (slot : s.inflight = some r) :
      Ending s (s.received r .done) .ok

/-- The step past an entry ends INIT only past the end of the table. -/
theorem State.nextEntry_idle {s : State} (idle : s.nextEntry.phase = .idle) :
    s.cfg.initTable.length ≤ s.idx + 1 ∧ s.nextEntry = s.tableDone.finish .ok := by
  rcases s.nextEntry_cases with ⟨-, h⟩ | h
  · simp [h] at idle
  · exact h

/-- A `Submit` ends the operation in progress only by a refusal. -/
theorem State.submit_idle {op : Byte} {r : Req} {s : State} (idle : (s.submit op r).phase = .idle)
    (busy : s.phase ≠ .idle) :
    ∃ x, s.submit op r = (s.log (.submitted r (.refused x) s.now)).failTransaction op x := by
  cases answer : s.submitAns with
  | accepted =>
    rw [State.submit_accepted op r answer] at idle
    exact absurd idle (Phase.waitPhase_ne_idle busy)
  | refused x => exact ⟨x, State.submit_refused op r answer⟩

/-- A `Submit` that ends INIT has its entry refused. -/
theorem State.submit_ends_init {op : Byte} {r : Req} {s : State} {p : Phase} (idle : (s.submit op r).phase = .idle)
    (at_phase : s.phase = p) (busy : p ≠ .idle := by decide) (init : p.isInit = true := by decide) :
    ∃ x, s.submit op r =
      (s.log (.submitted r (.refused x) s.now)).initFailed.finish (.initSeqFail s.idx op x) := by
  obtain ⟨x, h⟩ := State.submit_idle idle (at_phase ▸ busy)
  exact ⟨x, h.trans (State.failTransaction_of_init op x (at_phase ▸ init))⟩

/-- A `Submit` that ends FLUSH has its request refused. -/
theorem State.submit_ends_flush {op : Byte} {r : Req} {s : State} {p : Phase} (idle : (s.submit op r).phase = .idle)
    (at_phase : s.phase = p) (busy : p ≠ .idle := by decide) (flush : p.isInit = false := by decide) :
    ∃ x, s.submit op r = (s.log (.submitted r (.refused x) s.now)).finish (.xportFail x) := by
  obtain ⟨x, h⟩ := State.submit_idle idle (at_phase ▸ busy)
  exact ⟨x, h.trans (State.failTransaction_of_flush op x (at_phase ▸ flush))⟩

/-- A transition into `IDLE` ends the operation, or is no change. -/
theorem Transition.ending {s t : State} (h : Transition s t) (idle : t.phase = .idle) :
    t = s ∨ ∃ u r, t = u.finish r ∧ Ending s u r := by
  cases h with
  | stay => exact .inl rfl
  | initRejected rst was_idle => exact .inr ⟨_, _, rfl, .initRejected rst was_idle⟩
  | flushRejected w src c was_idle why => exact .inr ⟨_, _, rfl, .flushRejected w src c was_idle why⟩
  | entrySubmitted e at_phase at_idx =>
    obtain ⟨x, h⟩ := State.submit_ends_init (s := s.loaded _ _) idle at_phase
    exact .inr ⟨_, _, h, .entryRefused e x at_phase at_idx⟩
  | casetSubmitted at_phase =>
    obtain ⟨x, h⟩ := State.submit_ends_flush (s := s.loaded _ _) idle at_phase
    exact .inr ⟨_, _, h, .casetRefused x at_phase⟩
  | rasetSubmitted at_phase =>
    obtain ⟨x, h⟩ := State.submit_ends_flush (s := s.loaded _ _) idle at_phase
    exact .inr ⟨_, _, h, .rasetRefused x at_phase⟩
  | pixelsSubmitted b at_phase held =>
    obtain ⟨x, h⟩ := State.submit_ends_flush (s := s.headed _) idle at_phase
    exact .inr ⟨_, _, h, .pixelsRefused b x at_phase held⟩
  | entryDone e r at_phase at_idx slot _ none_left =>
    obtain ⟨last, h⟩ := State.nextEntry_idle idle
    exact .inr ⟨_, _, h, .entryDone e r at_phase at_idx slot none_left last⟩
  | entryFailed e r x at_phase at_idx slot => exact .inr ⟨_, _, rfl, .entryFailed e r x at_phase at_idx slot⟩
  | delayOver e at_phase at_idx floor =>
    obtain ⟨last, h⟩ := State.nextEntry_idle idle
    exact .inr ⟨_, _, h, .delayOver e at_phase at_idx floor last⟩
  | transactionFailed r x at_phase slot => exact .inr ⟨_, _, rfl, .transactionFailed r x at_phase slot⟩
  | denied at_phase => exact .inr ⟨_, _, rfl, .denied at_phase⟩
  | pixelsDone r at_phase slot => exact .inr ⟨_, _, rfl, .pixelsDone r at_phase slot⟩
  | corrected _ _ _ at_phase => simp [at_phase] at idle
  | _ => simp [State.startPulse] at idle

/-- A status that records a return has the time and the result of that return, and is idle. -/
theorem StatusEffect.of_returned {s t : State} {r : Result} {n : Nat} (grows : s.trace <:+ t.trace)
    (h : StatusEffect s.status t.status) (hr : Records s t (.returned r n)) :
    n = s.now ∧ t.result = r ∧ t.phase = .idle := by
  cases h with
  | kept _ _ _ events | started _ _ _ _ _ events => simp [records_returned_iff grows events] at hr
  | returned _ _ idle _ result events | rejected _ _ _ idle _ result events =>
    obtain ⟨rfl, rfl⟩ : r = _ ∧ n = _ := by simpa [records_returned_iff grows events] using hr
    exact ⟨rfl, result, State.busy_eq_false.1 idle⟩

/-- With nothing at the port an idle controller waits. -/
theorem control_idle_waits {s : State} (idle : s.phase = .idle) (port : s.hostPort = none) : control s = .next s := by
  simp only [control, State.fetch, State.proceed, idle, port]

/-- A step that records a return is an end of an operation, and one was in progress or at the port. -/
theorem step_ending {s t : State} {r : Result} {n : Nat} (h : step s = .next t) (hr : Records s t (.returned r n)) :
    n = s.now ∧ (s.phase ≠ .idle ∨ s.hostPort ≠ none) ∧
      ∃ ms u, t = u.finish r ∧ Transition (s.withMoves ms) t ∧ Ending (s.withMoves ms) u r := by
  rcases step_next h with ⟨ms, hc⟩ | ⟨m, ms, -, he⟩
  · have ht := control_next hc
    obtain ⟨time, result, idle⟩ := ht.statusEffect.of_returned ht.trace_suffix hr
    have moved : t ≠ s.withMoves ms := fun same => not_records_same (congrArg State.trace same) _ hr
    refine ⟨time, ?_, ms, ?_⟩
    · by_contra! quiet
      obtain ⟨was_idle, port⟩ := quiet
      exact moved (by cases (control_idle_waits (s := s.withMoves ms) was_idle port).symm.trans hc; rfl)
    · obtain ⟨u, r', rfl, ending⟩ := (ht.ending idle).resolve_left moved
      obtain rfl : r' = r := by simpa using result
      exact ⟨u, rfl, ht, ending⟩
  · exact absurd hr (not_records_same (environment_trace he) _)

/-! ## The state that an end leaves -/

/-- The slot is free outside the wait phases. -/
theorem State.Inv.slot_free {s : State} (inv : s.Inv) (no_wait : s.phase.isWait = false) : s.inflight = none := by
  simpa [no_wait] using inv.slot

/-- With the slot free no completion is pending. -/
theorem State.Inv.no_signal {s : State} (inv : s.Inv) (free : s.inflight = none) : s.completion = none :=
  not_not.1 fun pending => inv.signal pending free

/-- Outside the pulse the reset line is high. -/
theorem State.Inv.line_high {s : State} (inv : s.Inv) (no_pulse : s.phase ≠ .iRstLow) : s.rstN = .high := by
  cases level : s.rstN with
  | low => exact absurd (inv.line.1 level) no_pulse
  | high => rfl

/-- Outside its three phases there is no scratch buffer. -/
theorem State.Inv.no_buffer {s : State} (inv : s.Inv) (no_hold : s.phase.holdsScratch = false) : s.scratch = none := by
  simpa [no_hold] using inv.scratch

/-- The invariant says nothing of the moves to come. -/
theorem State.Inv.withMoves {s : State} (inv : s.Inv) (ms : List Move) : (s.withMoves ms).Inv :=
  ⟨inv.configured, inv.attached, inv.slot, inv.signal, inv.line, inv.scratch, inv.params, inv.mark, inv.panel,
    inv.progress⟩

/-- What the invariant says of the operation in progress, at a phase that is known. -/
theorem State.Inv.progress_at {s : State} {p : Phase} (inv : s.Inv) (at_phase : s.phase = p) :
    ({ s with phase := p }).progress := by
  subst at_phase
  exact inv.progress

/-- An operation ends either out of a wait phase that took its completion, or in a phase with nothing in flight. -/
theorem Ending.slot {s u : State} {r : Result} (h : Ending s u r) :
    (u.inflight = none ∧ u.completion = none) ∨
      (s.phase.isWait = false ∧ u.inflight = s.inflight ∧ u.completion = s.completion) := by
  cases h with
  | entryFailed | entryDone | transactionFailed | pixelsDone => exact .inl ⟨rfl, rfl⟩
  | initRejected _ at_phase | flushRejected _ _ _ at_phase | entryRefused _ _ at_phase | delayOver _ at_phase
  | casetRefused _ at_phase | rasetRefused _ at_phase | pixelsRefused _ _ at_phase | denied at_phase =>
    exact .inr ⟨by rw [at_phase]; rfl, rfl, rfl⟩

/-- No operation ends in the reset pulse. -/
theorem Ending.line {s u : State} {r : Result} (h : Ending s u r) : s.phase ≠ .iRstLow ∧ u.rstN = s.rstN := by
  cases h with
  | transactionFailed _ _ phases => exact ⟨by rcases phases with h | h | h <;> simp [h], rfl⟩
  | initRejected _ at_phase | flushRejected _ _ _ at_phase | entryRefused _ _ at_phase | entryFailed _ _ _ at_phase
  | entryDone _ _ at_phase | delayOver _ at_phase | casetRefused _ at_phase | rasetRefused _ at_phase
  | pixelsRefused _ _ at_phase | denied at_phase | pixelsDone _ at_phase => exact ⟨by simp [at_phase], rfl⟩

/-- An operation ends at the time of its last step. -/
theorem Ending.now {s u : State} {r : Result} (h : Ending s u r) : u.now = s.now := by
  cases h <;> rfl

/-- An end leaves the buffer to the release. -/
theorem Ending.buffer {s u : State} {r : Result} (h : Ending s u r) : u.scratch = s.scratch := by
  cases h <;> rfl

/-- Under the invariant an operation ends with nothing in flight, no completion pending, and the reset line high. -/
theorem Ending.quiet {s u : State} {r : Result} (h : Ending s u r) (inv : s.Inv) :
    u.inflight = none ∧ u.completion = none ∧ u.rstN = .high := by
  obtain ⟨no_pulse, line⟩ := h.line
  have high := line.trans (inv.line_high no_pulse)
  rcases h.slot with ⟨free, no_signal⟩ | ⟨no_wait, free, no_signal⟩
  · exact ⟨free, no_signal, high⟩
  · have slot := inv.slot_free no_wait
    exact ⟨free.trans slot, no_signal.trans (inv.no_signal slot), high⟩

/-- Settles O18: the end of an operation writes the record, the buffer and the phase, and what it finds in the slot and on
the line is what the invariant leaves there. -/
theorem returnedStateIsClean : Obligations.ReturnedStateIsClean := by
  intro s t r n inv h hr
  obtain ⟨rfl, accepted, ms, u, rfl, -, ending⟩ := step_ending h hr
  obtain ⟨free, no_signal, high⟩ := ending.quiet (inv.withMoves ms)
  exact ⟨State.finish_phase r u, by simp [free], State.finish_scratch r u, by simp [no_signal], State.finish_valid r u,
    State.finish_result r u, by simp [high], ((State.finish_now r u).trans ending.now).symm, accepted⟩

/-- Settles O17: `raise` is the end of an operation, field by field; under the invariant that end finds the slot free, and
the one writer of `init_status` beside a return of `OK` is a failed entry. -/
theorem raiseEffect : Obligations.RaiseEffect := by
  refine ⟨fun s r => ⟨(State.finish_eq r s).trans rfl, by simp [State.busy], by simp [State.err]⟩,
    fun s t r n inv h hr => ?_⟩
  obtain ⟨-, -, ms, u, rfl, ht, ending⟩ := step_ending h hr
  refine ⟨by simpa using (ending.quiet (inv.withMoves ms)).1, fun changed error => ?_⟩
  have result {q : Result} {m : Nat} (hq : Records (s.withMoves ms) (u.finish r) (.returned q m)) : r = q := by
    simpa using (ht.statusEffect.of_returned ht.trace_suffix hq).2.1
  rcases ht.initStatus_writer with same | ⟨-, -, -, ok⟩ | ⟨-, failed, k, op, e, hq⟩
  · exact absurd same changed
  · exact absurd (result ok) error
  · exact ⟨failed, k, op, e, result hq⟩

/-! ## The result that the trace calls for -/

/-- What a FLUSH is rejected for: no handle or no buffer, or what its window and buffer give on their own. -/
theorem flushCause_eq_some {s : State} {w : Window} {src : Option (List Half)} {c : Cause}
    (why : flushCause s w src = some c) :
    c = .nullHandle ∨ ∃ px, src = some px ∧ windowCause s.cfg w px = some c := by
  by_cases null : s.handle = none ∨ src = none
  · rw [flushCause_of_null null] at why
    exact .inl (Option.some.inj why).symm
  · obtain ⟨attached, buffer⟩ := not_or.1 null
    obtain ⟨px, rfl⟩ := Option.ne_none_iff_exists'.1 buffer
    exact .inr ⟨px, rfl, (flushCause_of_handle w px attached).symm.trans why⟩

/-- A FLUSH rejected (44_flush_pipeline.md R221 to R223). -/
theorem FlushEnded.of_flushCause (s : State) {w : Window} {src : Option (List Half)} {c : Cause}
    (why : flushCause s w src = some c) :
    FlushEnded s.cfg (.invalidArg c) (.accepted (flushOp w src) s.now :: s.trace) := by
  rcases flushCause_eq_some why with rfl | ⟨px, rfl, cause⟩
  · exact .nullHandle w src s.now s.trace
  · exact .invalid w px c s.now s.trace cause

/-- The entry that ends the table is its last. -/
theorem State.length_of_last {s : State} {e : CommandEntry} (at_idx : s.entry = some e)
    (last : s.cfg.initTable.length ≤ s.idx + 1) : s.cfg.initTable.length = s.idx + 1 := by
  obtain ⟨within, -⟩ := List.getElem?_eq_some_iff.1 at_idx
  omega

/-- Under the invariant the trace of an entry in flight: the entries before it replayed, and its accepted `Submit`. -/
theorem State.Inv.trace_of_entry {s : State} {e : CommandEntry} {r : Req} (inv : s.Inv) (at_phase : s.phase = .iWait)
    (at_idx : s.entry = some e) (slot : s.inflight = some r) :
    r = entryReq s.cfg e ∧ ∃ due ts tr, s.trace = .submitted (entryReq s.cfg e) .accepted ts :: tr ∧
      Replayed s.cfg s.idx due tr ∧ due ≤ ts ∧ ts ≤ s.now := by
  obtain ⟨e', ts, due, tr, at_idx', slot', trace, before, floor, order⟩ := inv.progress_at at_phase
  obtain rfl : e = e' := Option.some.inj (at_idx.symm.trans at_idx')
  exact ⟨Option.some.inj (slot.symm.trans slot'), due, ts, tr, trace, before, floor, order⟩

/-- The request of a finished correction's buffer is the pixel write of its source. -/
theorem ScratchHolds.request {c : Config} {w : Window} {px : List Half} {b : Scratch} {tr : List Event}
    (holds : ScratchHolds c.pixOrder w.npix w.npix px b) (flushing : Flushing c w px 3 tr) :
    colorReq c c.opPixwr b.payload = pixelReq c px := by
  obtain ⟨-, -, npix⟩ := windowCause_eq_none.1 flushing.trace_at_buffer.1
  rw [holds.payload npix, pixelReq]

/-! What an end writes of the trace, under the invariant, by the phase that it leaves. -/

section ends
variable {s : State} (inv : s.Inv)
include inv

/-- An entry refused (41_init_sequencer.md R168). -/
theorem State.Inv.entry_refused {e : CommandEntry} (x : XErr) (at_phase : s.phase = .iIssue) (at_idx : s.entry = some e) :
    InitEnded s.cfg (.initSeqFail s.idx e.opcode x) s.now
      (.submitted (entryReq s.cfg e) (.refused x) s.now :: s.trace) := by
  obtain ⟨-, due, -, before, floor⟩ := inv.progress_at at_phase
  exact .refused s.idx due s.now s.now e x s.trace before at_idx floor

/-- An entry failed (41_init_sequencer.md R168). -/
theorem State.Inv.entry_failed {e : CommandEntry} {r : Req} (x : XErr) (at_phase : s.phase = .iWait)
    (at_idx : s.entry = some e) (slot : s.inflight = some r) :
    InitEnded s.cfg (.initSeqFail s.idx e.opcode x) s.now (.completed r (.failed x) s.now :: s.trace) := by
  obtain ⟨rfl, due, ts, tr, trace, before, floor, -⟩ := inv.trace_of_entry at_phase at_idx slot
  rw [trace]
  exact .failed s.idx due ts s.now s.now e x tr before at_idx floor

/-- The last entry done, with no post-delay to wait (41_init_sequencer.md R164). -/
theorem State.Inv.table_done {e : CommandEntry} {r : Req} (at_phase : s.phase = .iWait) (at_idx : s.entry = some e)
    (slot : s.inflight = some r) (none_left : e.postDelay = 0) (last : s.cfg.initTable.length ≤ s.idx + 1) :
    InitEnded s.cfg .ok s.now (.completed r .done s.now :: s.trace) := by
  obtain ⟨rfl, due, ts, tr, trace, before, floor, order⟩ := inv.trace_of_entry at_phase at_idx slot
  have whole := Replayed.entry s.idx due ts s.now e tr before at_idx floor order
  rw [← State.length_of_last at_idx last, ← trace] at whole
  exact .ok _ s.now _ whole (by omega)

/-- The last post-delay over (41_init_sequencer.md R164). -/
theorem State.Inv.table_over {e : CommandEntry} (at_phase : s.phase = .iDelay) (at_idx : s.entry = some e)
    (floor : s.tMark + e.postDelay ≤ s.now) (last : s.cfg.initTable.length ≤ s.idx + 1) :
    InitEnded s.cfg .ok s.now s.trace := by
  obtain ⟨e', at_idx', whole⟩ := inv.progress_at at_phase
  obtain rfl : e = e' := Option.some.inj (at_idx.symm.trans at_idx')
  rw [← State.length_of_last at_idx last] at whole
  exact .ok _ s.now s.trace whole floor

/-- The column address set refused (42_address_window.md R196). -/
theorem State.Inv.caset_refused (x : XErr) (at_phase : s.phase = .fCasetIssue) :
    FlushEnded s.cfg (.xportFail x) (.submitted (casetReq s.cfg s.win) (.refused x) s.now :: s.trace) := by
  obtain ⟨px, -, before⟩ := inv.progress_at at_phase
  exact .casetRefused s.win px x s.now s.trace before

/-- The row address set refused (42_address_window.md R196). -/
theorem State.Inv.raset_refused (x : XErr) (at_phase : s.phase = .fRasetIssue) :
    FlushEnded s.cfg (.xportFail x) (.submitted (rasetReq s.cfg s.win) (.refused x) s.now :: s.trace) := by
  obtain ⟨px, -, before⟩ := inv.progress_at at_phase
  exact .rasetRefused s.win px x s.now s.trace before

/-- The pixel write refused: the buffer is released after the answer (44_flush_pipeline.md R227). -/
theorem State.Inv.pixels_refused {b : Scratch} (x : XErr) (at_phase : s.phase = .fPixIssue) (held : s.scratch = some b) :
    FlushEnded s.cfg (.xportFail x) (released s.scratch s.now ++
      .submitted (colorReq s.cfg s.cfg.opPixwr b.payload) (.refused x) s.now :: s.trace) := by
  obtain ⟨px, b', -, before, held', holds, count⟩ := inv.progress_at at_phase
  obtain rfl : b = b' := Option.some.inj (held.symm.trans held')
  rw [count] at holds
  rw [held, holds.request before]
  exact .pixelsRefused s.win px x s.now s.now s.trace before

/-- The allocation not granted (44_flush_pipeline.md R225). -/
theorem State.Inv.not_granted (at_phase : s.phase = .fAlloc) :
    FlushEnded s.cfg .allocFail (.allocated (2 * s.win.npix) .noMem :: s.trace) := by
  obtain ⟨px, -, before⟩ := inv.progress_at at_phase
  exact .noMem s.win px s.trace before

/-- Under the invariant the trace of a pixel write in flight, its buffer held. -/
theorem State.Inv.trace_of_pixels {r : Req} (at_phase : s.phase = .fPixWait) (slot : s.inflight = some r) :
    ∃ px ts tr b, r = pixelReq s.cfg px ∧ s.trace = .submitted (pixelReq s.cfg px) .accepted ts :: tr ∧
      Flushing s.cfg s.win px 3 tr ∧ s.scratch = some b := by
  obtain ⟨px, ts, tr, b, -, slot', trace, before, held, -⟩ := inv.progress_at at_phase
  exact ⟨px, ts, tr, b, Option.some.inj (slot.symm.trans slot'), trace, before, held⟩

/-- The pixel write done: the buffer is released after the completion (44_flush_pipeline.md R228). -/
theorem State.Inv.pixels_done {r : Req} (at_phase : s.phase = .fPixWait) (slot : s.inflight = some r) :
    FlushEnded s.cfg .ok (released s.scratch s.now ++ .completed r .done s.now :: s.trace) := by
  obtain ⟨px, ts, tr, b, rfl, trace, before, held⟩ := inv.trace_of_pixels at_phase slot
  rw [held, trace]
  exact .ok s.win px ts s.now s.now tr before

/-- A transaction of FLUSH failed, by its phase (44_flush_pipeline.md R229). -/
theorem State.Inv.transaction_failed {r : Req} (x : XErr)
    (at_phase : s.phase = .fCasetWait ∨ s.phase = .fRasetWait ∨ s.phase = .fPixWait) (slot : s.inflight = some r) :
    FlushEnded s.cfg (.xportFail x) (released s.scratch s.now ++ .completed r (.failed x) s.now :: s.trace) := by
  rcases at_phase with h | h | h
  · obtain ⟨px, ts, tr, -, slot', trace, before⟩ := inv.progress_at h
    rw [inv.no_buffer (by rw [h]; rfl), trace, Option.some.inj (slot.symm.trans slot')]
    exact .casetFailed s.win px x ts s.now tr before
  · obtain ⟨px, ts, tr, -, slot', trace, before⟩ := inv.progress_at h
    rw [inv.no_buffer (by rw [h]; rfl), trace, Option.some.inj (slot.symm.trans slot')]
    exact .rasetFailed s.win px x ts s.now tr before
  · obtain ⟨px, ts, tr, b, rfl, trace, before, held⟩ := inv.trace_of_pixels h slot
    rw [held, trace]
    exact .pixelsFailed s.win px x ts s.now s.now tr before
end ends

/-- Under the invariant every end returns the result that the trace calls for, the buffer's release included. -/
theorem Ending.called_for {s u : State} {r : Result} (h : Ending s u r) (inv : s.Inv) :
    InitEnded s.cfg r s.now (released s.scratch s.now ++ u.trace) ∨
      FlushEnded s.cfg r (released s.scratch s.now ++ u.trace) := by
  have no_release {p : Phase} (at_phase : s.phase = p) (no_hold : p.holdsScratch = false) :
      released s.scratch s.now = [] := by
    rw [inv.no_buffer (at_phase ▸ no_hold), released_none]
  cases h with
  | initRejected rst idle => rw [no_release idle rfl]; exact .inl (.rejected rst s.now s.now s.trace)
  | flushRejected w src c idle why => rw [no_release idle rfl]; exact .inr (.of_flushCause s why)
  | entryRefused e x at_phase at_idx =>
    rw [no_release at_phase rfl]; exact .inl (inv.entry_refused x at_phase at_idx)
  | entryFailed e r x at_phase at_idx slot =>
    rw [no_release at_phase rfl]; exact .inl (inv.entry_failed x at_phase at_idx slot)
  | entryDone e r at_phase at_idx slot none_left last =>
    rw [no_release at_phase rfl]; exact .inl (inv.table_done at_phase at_idx slot none_left last)
  | delayOver e at_phase at_idx floor last =>
    rw [no_release at_phase rfl]; exact .inl (inv.table_over at_phase at_idx floor last)
  | casetRefused x at_phase => rw [no_release at_phase rfl]; exact .inr (inv.caset_refused x at_phase)
  | rasetRefused x at_phase => rw [no_release at_phase rfl]; exact .inr (inv.raset_refused x at_phase)
  | pixelsRefused b x at_phase held => exact .inr (inv.pixels_refused x at_phase held)
  | transactionFailed r x at_phase slot => exact .inr (inv.transaction_failed x at_phase slot)
  | denied at_phase => rw [no_release at_phase rfl]; exact .inr (inv.not_granted at_phase)
  | pixelsDone r at_phase slot => exact .inr (inv.pixels_done at_phase slot)

/-- Settles O57: the end of an operation returns the result that the trace up to the buffer's release calls for. -/
theorem resultMatchesTrace : Obligations.ResultMatchesTrace := by
  intro s t r n inv h hr
  obtain ⟨rfl, -, ms, u, rfl, -, ending⟩ := step_ending h hr
  refine ⟨released s.scratch s.now ++ u.trace, ?_, ending.called_for (inv.withMoves ms)⟩
  rw [State.finish_trace, State.free_trace, ending.now, ending.buffer]
  rfl

end Sys2Proof.Machine
end

section
/-! SUPPORT. What the configuration and the trace of a replay say of the timing floors (00_scope.md R10,
41_init_sequencer.md section 2, 70_reset_and_hazards.md section 3). -/

namespace Sys2Proof.Machine

/-! ## The floors of the configuration -/

/-- The numeric floors of the two reset times and of the sleep exit (00_scope.md R10). -/
theorem Config.floors_of_wf {c : Config} (h : c.wf = true) : 10 ≤ c.tRstLow ∧ 120 ≤ c.tRstSettle ∧ 120 ≤ c.tSlpout := by
  simp only [Config.wf, Config.paramsOk, Bool.and_eq_true, decide_eq_true_eq] at h
  simp only [h, and_self]

/-- The last entry but one of the table is the sleep exit, and its post-delay is at least the sleep-exit floor
(41_init_sequencer.md R166, R167). -/
theorem Config.sleep_exit_of_wf {c : Config} {i : Nat} {e : CommandEntry} (h : c.wf = true)
    (at_i : c.initTable[i]? = some e) (place : i + 2 = c.initTable.length) :
    e.opcode = c.opSlpout ∧ c.tSlpout ≤ e.postDelay := by
  have role := Config.terminal_opcode (k := 4) h at_i (by omega)
  simp only [Config.wf, Config.tableSleepOk, Bool.and_eq_true, show c.initTable.length - 2 = i by omega, at_i,
    decide_eq_true_eq] at h
  obtain ⟨-, floor⟩ := h
  exact ⟨(Option.some.inj role).symm, floor⟩

/-! ## The newest events of a replay -/

/-- Before the first entry: the acceptance alone, or the reset pulse with its settle time to wait. -/
theorem Replayed.before_first {c : Config} {due : Nat} {tr : List Event} (h : Replayed c 0 due tr) :
    (∃ x older, tr = .accepted (.init false (some x)) due :: older) ∨
      ∃ x ta t0 t1 older, tr = .rstDrive .high t1 :: .rstDrive .low t0 :: .accepted (.init true (some x)) ta :: older ∧
        t0 + c.tRstLow ≤ t1 ∧ due = t1 + c.tRstSettle := by
  cases h with
  | unpulsed x _ older => exact .inl ⟨x, older, rfl⟩
  | pulsed x ta t0 t1 older low => exact .inr ⟨x, ta, t0, t1, older, rfl, low, rfl⟩

/-- After an entry: its completion, with its post-delay to wait. -/
theorem Replayed.after_entry {c : Config} {n due : Nat} {e : CommandEntry} {tr : List Event}
    (h : Replayed c (n + 1) due tr) (at_n : c.initTable[n]? = some e) :
    ∃ tc older, tr = .completed (entryReq c e) .done tc :: older ∧ due = tc + e.postDelay := by
  cases h with
  | entry _ _ ts tc e' tr _ at_n' =>
    obtain rfl : e = e' := Option.some.inj (at_n.symm.trans at_n')
    exact ⟨tc, _, rfl, rfl⟩

/-- An INIT that returns `OK` has waited the post-delay of its last entry. -/
theorem InitEnded.after_last {c : Config} {n : Nat} {tr : List Event} (h : InitEnded c .ok n tr)
    (some_entry : 0 < c.initTable.length) :
    ∃ e tc older, c.initTable[c.initTable.length - 1]? = some e ∧ tr = .completed (entryReq c e) .done tc :: older ∧
      tc + e.postDelay ≤ n := by
  cases h with
  | ok due _ _ all floor =>
    obtain ⟨e, last⟩ : ∃ e, c.initTable[c.initTable.length - 1]? = some e :=
      ⟨_, List.getElem?_eq_getElem (by omega)⟩
    rw [show c.initTable.length = c.initTable.length - 1 + 1 by omega] at all
    obtain ⟨tc, older, trace, rfl⟩ := all.after_entry last
    exact ⟨e, tc, older, last, trace, floor⟩

/-- Under the invariant an INIT in its wait or its delay that ends with `OK` has the trace of a whole replay. -/
theorem Ending.init_ok {s u : State} (h : Ending s u .ok) (inv : s.Inv) (in_init : s.phase = .iWait ∨ s.phase = .iDelay) :
    InitEnded s.cfg .ok s.now u.trace := by
  cases h with
  | entryDone e r at_phase at_idx slot none_left last => exact inv.table_done at_phase at_idx slot none_left last
  | delayOver e at_phase at_idx floor last => exact inv.table_over at_phase at_idx floor last
  | pixelsDone _ at_phase => simp [at_phase] at in_init

/-! ## The floors at a step -/

/-- With an operation in progress the configuration is one of this block. -/
theorem State.Inv.cfg_wf {s : State} (inv : s.Inv) (busy : s.phase ≠ .idle) : s.cfg.wf = true :=
  inv.configured (inv.attached busy)

/-- Settles O59: where an entry is submitted the invariant has the trace of the entries before it, due by now, and the
configuration's floors are at least the spec's; an INIT that returns `OK` has replayed the whole table. -/
theorem timingFloorsKept : Obligations.TimingFloorsKept := by
  refine fun s t inv h => ⟨fun e a ts at_phase hr => ?_, fun n in_init hr => ?_⟩
  · obtain ⟨-, rfl, -⟩ := step_submitted h hr
    obtain ⟨-, due, -, before, floor⟩ := inv.progress_at at_phase
    have wf := inv.cfg_wf (by simp [at_phase])
    obtain ⟨low, settle, sleep⟩ := Config.floors_of_wf wf
    refine ⟨fun first => ?_, fun i d later at_i => ?_⟩
    · rw [first] at before
      rcases before.before_first with ⟨x, older, trace⟩ | ⟨x, ta, t0, t1, older, trace, pulse, rfl⟩
      · exact .inl ⟨x, due, older, trace⟩
      · exact .inr ⟨x, ta, t0, t1, older, trace, pulse, low, floor, settle⟩
    · rw [later] at before
      obtain ⟨tc, older, trace, rfl⟩ := before.after_entry at_i
      refine ⟨tc, older, trace, floor, fun last => ?_⟩
      obtain ⟨opcode, delay⟩ := Config.sleep_exit_of_wf wf at_i (by omega)
      exact ⟨opcode, (Nat.add_le_add_left delay tc).trans floor, sleep⟩
  · obtain ⟨rfl, -, ms, u, rfl, -, ending⟩ := step_ending h hr
    have wf := inv.cfg_wf (by rcases in_init with h | h <;> simp [h])
    have no_buffer : s.scratch = none := inv.no_buffer (by rcases in_init with h | h <;> rw [h] <;> rfl)
    obtain ⟨d, tc, older, last, trace, floor⟩ := (ending.init_ok (inv.withMoves ms) in_init).after_last
      (Nat.lt_of_lt_of_le (by decide) (Config.six_le_length_of_wf wf))
    refine ⟨d, tc, older, last, ?_, floor⟩
    rw [State.finish_trace, State.free_trace, ending.now, ending.buffer, trace, State.withMoves, no_buffer]
    rfl

end Sys2Proof.Machine
end

section
/-! SUPPORT. Decoding what was encoded: what each opcode of class CMD is decoded to, and each address-set payload
(30_encoding.md sections 1 to 3, 6 and 8). -/

namespace Sys2Proof

/-! ## The payload of an address set -/

/-- An inclusive end that no window has (42_address_window.md R191). -/
theorem decodeSide_endOutOfRange (mk : Half → Half → Instr) (a b : Byte) {e f : Byte}
    (last : (e ++ f : Half).toNat = 65535) : decodeSide mk [a, b, e, f] = .error .endOutOfRange :=
  if_pos (BitVec.eq_of_toNat_eq last)

/-- Another inclusive end is in range. -/
theorem ofBe16_ne_last {e f : Byte} (in_range : (e ++ f : Half).toNat ≠ 65535) : ofBe16 e f ≠ 0xFFFF :=
  fun last => in_range (congrArg BitVec.toNat last)

/-- An inclusive end before its start. -/
theorem decodeSide_endBeforeStart (mk : Half → Half → Instr) {a b e f : Byte}
    (before : (e ++ f : Half).toNat < (a ++ b : Half).toNat) (in_range : (e ++ f : Half).toNat ≠ 65535) :
    decodeSide mk [a, b, e, f] = .error .endBeforeStart :=
  (if_neg (ofBe16_ne_last in_range)).trans (if_pos before)

/-- A start and an inclusive end, in order and in range, are a side. -/
theorem decodeSide_side (mk : Half → Half → Instr) {a b e f : Byte}
    (ordered : (a ++ b : Half).toNat ≤ (e ++ f : Half).toNat) (in_range : (e ++ f : Half).toNat ≠ 65535) :
    decodeSide mk [a, b, e, f] = .ok (mk (a ++ b) ((e ++ f) + 1)) :=
  (if_neg (ofBe16_ne_last in_range)).trans (if_neg (Nat.not_lt.2 ordered))

/-- A side of positive extent is read back. -/
theorem decodeSide_sidePayload (mk : Half → Half → Instr) {start stop : Half} (extent : start.toNat < stop.toNat) :
    decodeSide mk (sidePayload start stop) = .ok (mk start stop) := by
  have starts : hi8 start ++ lo8 start = start := ofBe16_hi8_lo8 start
  have stops : hi8 (stop - 1) ++ lo8 (stop - 1) = stop - 1 := ofBe16_hi8_lo8 (stop - 1)
  have side := decodeSide_side mk (a := hi8 start) (b := lo8 start) (e := hi8 (stop - 1)) (f := lo8 (stop - 1))
    (by rw [starts, stops]; bv_omega) (by rw [stops]; bv_omega)
  rwa [starts, stops, BitVec.sub_add_cancel] at side

/-! ## The opcodes of class CMD -/

/-- Under distinct opcodes each named one is decoded to its own operation (30_encoding.md R113). -/
theorem decodeCommand_named {c : Config} {data : List Byte} (distinct : c.opsDistinct = true)
    (fits : data.length ≤ maxParams) :
    decodeCommand c c.opCaset data = decodeSide .caset data ∧ decodeCommand c c.opRaset data = decodeSide .raset data ∧
      decodeCommand c c.opColmod data = .ok (.colmod data) ∧ decodeCommand c c.opMadctl data = .ok (.madctl data) ∧
      decodeCommand c c.opTeon data = .ok (.teon data) ∧ decodeCommand c c.opInvon data = .ok (.invon data) ∧
      decodeCommand c c.opSlpout data = .ok (.slpout data) ∧ decodeCommand c c.opDispon data = .ok (.dispon data) := by
  have differ := of_decide_eq_true distinct
  simp only [Config.namedOps, List.nodup_cons, List.mem_cons, List.not_mem_nil, not_or] at differ
  simp [decodeCommand, Nat.not_lt.2 fits, differ, eq_comm]

/-- An opcode that the configuration does not name is a VENDOR entry's (log entry 11). -/
theorem decodeCommand_vendor {c : Config} {op : Byte} {data : List Byte} (other : op ∉ c.namedOps)
    (fits : data.length ≤ maxParams) : decodeCommand c op data = .ok (.vendor op data) := by
  simp only [Config.namedOps, List.mem_cons, List.not_mem_nil, not_or] at other
  simp [decodeCommand, Nat.not_lt.2 fits, other]

/-- A named opcode that is no address set's is the operation of its own name, not VENDOR. -/
theorem decodeCommand_terminal {c : Config} {op : Byte} {data : List Byte} (distinct : c.opsDistinct = true)
    (fits : data.length ≤ maxParams) (named : op ∈ c.namedOps) (not_caset : op ≠ c.opCaset) (not_raset : op ≠ c.opRaset) :
    ∃ i, decodeCommand c op data = .ok i ∧ i ≠ .vendor op data := by
  obtain ⟨-, -, colmod, madctl, teon, invon, slpout, dispon⟩ := decodeCommand_named distinct fits
  simp only [Config.namedOps, List.mem_cons, List.not_mem_nil, or_false, not_caset, not_raset, false_or] at named
  rcases named with rfl | rfl | rfl | rfl | rfl | rfl
  exacts [⟨_, colmod, nofun⟩, ⟨_, madctl, nofun⟩, ⟨_, teon, nofun⟩, ⟨_, invon, nofun⟩, ⟨_, slpout, nofun⟩,
    ⟨_, dispon, nofun⟩]

/-- A command frame with the opcode of an address set is decoded as its side. -/
theorem decodeFrame_side {c : Config} {data : List Byte} (distinct : c.opsDistinct = true)
    (fits : data.length ≤ maxParams) :
    decodeFrame c (frameBytes c.markerCmd c.opCaset data) = decodeSide .caset data ∧
      decodeFrame c (frameBytes c.markerCmd c.opRaset data) = decodeSide .raset data := by
  obtain ⟨caset, raset, -⟩ := decodeCommand_named distinct fits
  exact ⟨(decodeFrame_command c _ data).trans caset, (decodeFrame_command c _ data).trans raset⟩

/-! ## The round trip -/

/-- RAMWR is read back where its opcode is the configured one (40_transaction_encoder.md R146). -/
theorem decodePixel_ramwr {c : Config} {data : List Byte} (whole : data ≠ [] ∧ data.length % 2 = 0)
    (opcode : c.opPixwr = 0x2C) : decodePixel c 0x2C data = .ok (.ramwr data) := by
  simp [decodePixel, whole, opcode]

/-- RAMWRC is read back where its opcode is the configured one (40_transaction_encoder.md R147). -/
theorem decodePixel_ramwrc {c : Config} {data : List Byte} (whole : data ≠ [] ∧ data.length % 2 = 0)
    (opcode : c.opPixwr = 0x3C) : decodePixel c 0x3C data = .ok (.ramwrc data) := by
  simp [decodePixel, whole, opcode]

/-- What is encoded is decoded to itself, but for the two operations of one bit pattern and a color write under the other
opcode. -/
theorem decode_encode {c : Config} (wf : c.wf = true) (distinct : c.opsDistinct = true) {i : Instr} (iwf : i.wf = true)
    (not_cmdwr : ∀ op ps, i ≠ .cmdwr op ps) (not_vendor : ∀ op ps, i ≠ .vendor op ps)
    (ramwr : ∀ bs, i = .ramwr bs → c.opPixwr = 0x2C) (ramwrc : ∀ bs, i = .ramwrc bs → c.opPixwr = 0x3C) :
    decode c (encode c i) = .ok i := by
  have markers := Config.markers_of_wf wf
  cases i with
  | cmdwr op ps => exact absurd rfl (not_cmdwr op ps)
  | vendor op ps => exact absurd rfl (not_vendor op ps)
  | init | flush => rfl
  | caset start stop =>
    exact (decodeFrame_side distinct (Machine.sidePayload_short _ _)).1.trans
      (decodeSide_sidePayload _ (of_decide_eq_true iwf))
  | raset start stop =>
    exact (decodeFrame_side distinct (Machine.sidePayload_short _ _)).2.trans
      (decodeSide_sidePayload _ (of_decide_eq_true iwf))
  | ramwr bs =>
    exact (decodeFrame_pixel markers _ bs).trans (decodePixel_ramwr (of_decide_eq_true iwf) (ramwr bs rfl))
  | ramwrc bs =>
    exact (decodeFrame_pixel markers _ bs).trans (decodePixel_ramwrc (of_decide_eq_true iwf) (ramwrc bs rfl))
  | colmod ps | madctl ps | teon ps | invon ps | slpout ps | dispon ps =>
    have named := decodeCommand_named distinct (of_decide_eq_true (p := ps.length ≤ maxParams) iwf)
    exact (decodeFrame_command c _ ps).trans (by simp only [named])

/-- Settles O2: the round trip by the operation; CMDWR and VENDOR by the opcode, which is a named one or not; an address
set by its four bytes. -/
theorem decodeOfEncode : Obligations.DecodeOfEncode := by
  intro c wf distinct
  have markers := Config.markers_of_wf wf
  refine ⟨fun i iwf not_cmdwr not_vendor => decode_encode wf distinct iwf not_cmdwr not_vendor,
    fun bs some_bytes even => ⟨fun opcode => ?_, fun opcode => ?_⟩, fun op ps fits other => ?_,
    fun op ps fits named => ⟨rfl, fun not_caset not_raset => ?_, fun side length => ?_⟩, fun op a b e f side => ?_⟩
  · exact (decodeFrame_pixel markers _ bs).trans (decodePixel_pixelOpcode ⟨some_bytes, even⟩ (by simp [opcode]))
  · exact (decodeFrame_pixel markers _ bs).trans (decodePixel_pixelOpcode ⟨some_bytes, even⟩ (by simp [opcode]))
  · have vendor := (decodeFrame_command c op ps).trans (decodeCommand_vendor other fits)
    exact ⟨vendor, vendor⟩
  · obtain ⟨i, decoded, not_vendor⟩ := decodeCommand_terminal distinct fits named not_caset not_raset
    exact ⟨i, (decodeFrame_command c op ps).trans decoded, not_vendor, (decodeCommand_ok decoded).1⟩
  · exact (decodeFrame_command c op ps).trans (decodeCommand_addressSetLength side fits length)
  · obtain ⟨caset, raset⟩ := decodeFrame_side (data := [a, b, e, f]) distinct (by simp [maxParams])
    obtain ⟨mk, decoded⟩ : ∃ mk, decode c (encode c (.cmdwr op [a, b, e, f])) = decodeSide mk [a, b, e, f] := by
      rcases side with rfl | rfl
      exacts [⟨_, caset⟩, ⟨_, raset⟩]
    refine ⟨fun last => decoded.trans (decodeSide_endOutOfRange mk a b last),
      fun before in_range => decoded.trans (decodeSide_endBeforeStart mk before in_range),
      fun ordered in_range => ⟨?_, ?_⟩⟩
    · rintro rfl
      exact caset.trans (decodeSide_side _ ordered in_range)
    · rintro rfl
      exact raset.trans (decodeSide_side _ ordered in_range)

end Sys2Proof
end

section
/-! SUPPORT. The invariant is kept: first what it says of each register, transition by transition, then where the operation
in progress stands (10_state.md sections 2 to 6, 41_init_sequencer.md section 3, 44_flush_pipeline.md section 2). -/

namespace Sys2Proof.Machine

/-! ## The registers that a submission and the step past an entry leave alone -/

@[simp] theorem State.submit_kept (op : Byte) (r : Req) (s : State) :
    (s.submit op r).now = s.now ∧ (s.submit op r).tMark = s.tMark ∧ (s.submit op r).pbuf = s.pbuf ∧
      (s.submit op r).plen = s.plen ∧ (s.submit op r).completion = s.completion := by
  obtain ⟨_, _, _, _, _, _, _, _, h⟩ := s.submit_writes op r
  simp [h]

@[simp] theorem State.nextEntry_kept (s : State) :
    s.nextEntry.now = s.now ∧ s.nextEntry.tMark = s.tMark ∧ s.nextEntry.pbuf = s.pbuf ∧ s.nextEntry.plen = s.plen ∧
      s.nextEntry.completion = s.completion ∧ s.nextEntry.inflight = s.inflight ∧ s.nextEntry.panel = s.panel := by
  rcases s.nextEntry_cases with ⟨-, h⟩ | ⟨-, h⟩ <;> simp [h]

@[simp] theorem State.loaded_kept (op : Byte) (ps : List Byte) (s : State) :
    (s.loaded op ps).phase = s.phase ∧ (s.loaded op ps).inflight = s.inflight ∧ (s.loaded op ps).scratch = s.scratch ∧
      (s.loaded op ps).completion = s.completion ∧ (s.loaded op ps).now = s.now ∧ (s.loaded op ps).tMark = s.tMark ∧
      (s.loaded op ps).panel = s.panel ∧ (s.loaded op ps).plen = ps.length := by
  simp [State.loaded]

@[simp] theorem State.headed_kept (op : Byte) (s : State) :
    (s.headed op).phase = s.phase ∧ (s.headed op).inflight = s.inflight ∧ (s.headed op).scratch = s.scratch ∧
      (s.headed op).completion = s.completion ∧ (s.headed op).now = s.now ∧ (s.headed op).tMark = s.tMark ∧
      (s.headed op).panel = s.panel ∧ (s.headed op).plen = s.plen ∧ (s.headed op).pbuf = s.pbuf := by
  simp [State.headed]

@[simp] theorem State.received_kept (r : Req) (c : Completion) (s : State) :
    (s.received r c).phase = s.phase ∧ (s.received r c).inflight = none ∧ (s.received r c).scratch = s.scratch ∧
      (s.received r c).completion = none ∧ (s.received r c).now = s.now ∧ (s.received r c).tMark = s.tMark ∧
      (s.received r c).panel = s.panel ∧ (s.received r c).plen = s.plen ∧ (s.received r c).pbuf = s.pbuf := by
  simp [State.received]

@[simp] theorem State.startPulse_kept (s : State) :
    s.startPulse.phase = .iRstLow ∧ s.startPulse.inflight = s.inflight ∧ s.startPulse.scratch = s.scratch ∧
      s.startPulse.completion = s.completion ∧ s.startPulse.rstN = .low ∧ s.startPulse.now = s.now ∧
      s.startPulse.tMark = s.now ∧ s.startPulse.handle = s.handle ∧ s.startPulse.plen = s.plen ∧
      s.startPulse.pbuf = s.pbuf := by
  simp [State.startPulse]

/-! ## Where a submission and the step past an entry go -/

/-- A `Submit` with the slot free fills it where it goes on to a wait phase, and leaves it free where it ends. -/
theorem State.submit_slot {s : State} (op : Byte) (r : Req) (free : s.inflight = none)
    (waits : s.phase.waitPhase.isWait = true) : (s.submit op r).inflight.isSome = (s.submit op r).phase.isWait := by
  rcases s.submit_cases op r with h | ⟨e, -, h⟩ | ⟨e, -, h⟩ <;> rw [h]
  · simp [State.sent, waits]
  · simp [free, Phase.isWait]
  · simp [free, Phase.isWait]

/-- The step past an entry has nothing in flight. -/
theorem State.nextEntry_slot {s : State} (free : s.inflight = none) :
    s.nextEntry.inflight.isSome = s.nextEntry.phase.isWait := by
  rcases s.nextEntry_cases with ⟨-, h⟩ | ⟨-, h⟩ <;> rw [h] <;> simp [free, Phase.isWait]

/-- A `Submit` leaves `I_RST_LOW` to the reset pulse. -/
theorem State.submit_phase_ne_iRstLow {s : State} (op : Byte) (r : Req) (waits : s.phase.waitPhase.isWait = true) :
    (s.submit op r).phase ≠ .iRstLow := by
  rcases s.submit_cases op r with h | ⟨e, -, h⟩ | ⟨e, -, h⟩ <;> rw [h]
  · intro low
    simp_all [State.sent, Phase.isWait]
  · simp
  · simp

/-- Nor does the step past an entry go there. -/
theorem State.nextEntry_phase_ne_iRstLow (s : State) : s.nextEntry.phase ≠ .iRstLow := by
  rcases s.nextEntry_cases with ⟨-, h⟩ | ⟨-, h⟩ <;> simp [h]

/-- A wait phase holds the buffer if its issue phase does. -/
theorem Phase.waitPhase_holdsScratch (p : Phase) : p.waitPhase.holdsScratch = p.holdsScratch := by cases p <;> rfl

/-- A `Submit` keeps the buffer where it goes on, and releases it where it ends. -/
theorem State.submit_scratch {s : State} (op : Byte) (r : Req) (held : s.scratch.isSome = s.phase.holdsScratch) :
    (s.submit op r).scratch.isSome = (s.submit op r).phase.holdsScratch := by
  rcases s.submit_cases op r with h | ⟨e, -, h⟩ | ⟨e, -, h⟩ <;> rw [h]
  · simpa [State.sent, Phase.waitPhase_holdsScratch] using held
  · simp [Phase.holdsScratch]
  · simp [Phase.holdsScratch]

/-- The step past an entry has no buffer. -/
theorem State.nextEntry_scratch {s : State} (no_buffer : s.scratch = none) :
    s.nextEntry.scratch.isSome = s.nextEntry.phase.holdsScratch := by
  rcases s.nextEntry_cases with ⟨-, h⟩ | ⟨-, h⟩ <;> rw [h] <;> simp [no_buffer, Phase.holdsScratch]

/-- Parameters within the buffer leave its length. -/
theorem State.loaded_pbuf_length {s : State} {op : Byte} {ps : List Byte} (short : ps.length ≤ maxParams)
    (length : s.pbuf.length = maxParams) : (s.loaded op ps).pbuf.length = maxParams := by
  simp only [State.loaded, State.loadParams_pbuf, List.length_append, List.length_drop]
  omega

/-- A `Submit` notes the time of a frame, or gives the panel up. -/
theorem State.submit_panel {s : State} (op : Byte) (r : Req) (wf : s.panel.wf = true) :
    (s.submit op r).panel.wf = true := by
  rcases s.submit_cases op r with h | ⟨e, -, h⟩ | ⟨e, -, h⟩ <;> rw [h] <;> simp [State.sent, wf]

/-! ## The handle and the configuration -/

section transition
variable {s t : State} (h : Transition s t) (inv : s.Inv)
include h inv

/-- A handle is stored only under a configuration of this block. -/
theorem Transition.keeps_configured (attached : t.handle ≠ none) : t.cfg.wf = true := by
  rw [h.cfg_eq]
  cases h with
  | initUnpulsed _ _ wf | initPulsed _ _ wf => exact wf
  | _ => exact inv.configured (by simpa using attached)

/-- An operation that starts has a handle, and one in progress keeps it. -/
theorem Transition.keeps_attached (busy : t.phase ≠ .idle) : t.handle ≠ none := by
  cases h with
  | initRejected | flushRejected | transactionFailed => simp at busy
  | initUnpulsed | initPulsed => simp
  | flushStarted w src _ valid => exact (flushCause_eq_none.1 valid).1
  | stay => exact inv.attached busy
  | entrySubmitted _ _ _ _ attached | casetSubmitted _ _ attached | rasetSubmitted _ _ attached
  | pixelsSubmitted _ _ _ _ _ _ attached => simpa using attached
  | lineHigh at_phase | settled at_phase | entryDone _ _ at_phase | delayStarted _ _ at_phase | entryFailed _ _ _ at_phase
  | delayOver _ at_phase | casetDone _ at_phase | rasetDone _ at_phase | granted at_phase | denied at_phase
  | corrected _ _ _ at_phase | allCorrected at_phase | pixelsDone _ at_phase =>
    simpa using inv.attached (by simp [at_phase])

/-! ## The slot and its completion -/

/-- The slot is filled exactly in the wait phases. -/
theorem Transition.keeps_slot : t.inflight.isSome = t.phase.isWait := by
  cases h with
  | stay => exact inv.slot
  | entrySubmitted _ at_phase _ _ _ free | casetSubmitted at_phase _ _ free | rasetSubmitted at_phase _ _ free
  | pixelsSubmitted _ at_phase _ _ _ _ _ free =>
    exact State.submit_slot _ _ free (by simp [at_phase, Phase.waitPhase, Phase.isWait])
  | entryDone => exact State.nextEntry_slot rfl
  | delayOver _ at_phase => exact State.nextEntry_slot (inv.slot_free (by simp [at_phase, Phase.isWait]))
  | delayStarted | entryFailed | casetDone | rasetDone | transactionFailed | pixelsDone => simp [Phase.isWait]
  | initRejected _ at_phase | initUnpulsed _ at_phase | initPulsed _ at_phase | flushRejected _ _ _ at_phase
  | flushStarted _ _ at_phase | lineHigh at_phase | settled at_phase | granted at_phase | denied at_phase
  | corrected _ _ _ at_phase | allCorrected at_phase =>
    have free := inv.slot_free (by simp [at_phase, Phase.isWait])
    simp [free, at_phase, Phase.isWait]

/-- A completion is pending only for a request in flight. -/
theorem Transition.keeps_signal (pending : t.completion ≠ none) : t.inflight ≠ none := by
  have quiet (free : s.inflight = none) : s.completion = none := inv.no_signal free
  cases h with
  | stay => exact inv.signal pending
  | entrySubmitted _ _ _ _ _ free | casetSubmitted _ _ _ free | rasetSubmitted _ _ _ free
  | pixelsSubmitted _ _ _ _ _ _ _ free => simp [quiet free] at pending
  | entryDone | delayStarted | entryFailed | casetDone | rasetDone | transactionFailed | pixelsDone => simp at pending
  | _ => simpa using inv.signal (by simpa using pending)

/-! ## The reset line and the scratch buffer -/

/-- The reset line is low exactly in `I_RST_LOW`. -/
theorem Transition.keeps_line : t.rstN = .low ↔ t.phase = .iRstLow := by
  have high (no_pulse : s.phase ≠ .iRstLow) : s.rstN = .high := inv.line_high no_pulse
  cases h with
  | stay => exact inv.line
  | initPulsed | lineHigh => simp
  | entrySubmitted _ at_phase | casetSubmitted at_phase | rasetSubmitted at_phase | pixelsSubmitted _ at_phase =>
    simp [high, at_phase, State.submit_phase_ne_iRstLow, Phase.waitPhase, Phase.isWait]
  | entryDone _ _ at_phase | delayOver _ at_phase => simp [high, at_phase, State.nextEntry_phase_ne_iRstLow]
  | transactionFailed _ _ phases => simp [high (by rcases phases with h | h | h <;> simp [h])]
  | initRejected _ at_phase | initUnpulsed _ at_phase | flushRejected _ _ _ at_phase | flushStarted _ _ at_phase
  | settled at_phase | delayStarted _ _ at_phase | entryFailed _ _ _ at_phase | casetDone _ at_phase | rasetDone _ at_phase
  | granted at_phase | denied at_phase | corrected _ _ _ at_phase | allCorrected at_phase | pixelsDone _ at_phase =>
    simp [high, at_phase]

/-- The scratch buffer exists exactly in its three phases. -/
theorem Transition.keeps_scratch : t.scratch.isSome = t.phase.holdsScratch := by
  cases h with
  | stay => exact inv.scratch
  | entrySubmitted | casetSubmitted | rasetSubmitted | pixelsSubmitted => exact State.submit_scratch _ _ inv.scratch
  | entryDone _ _ at_phase | delayOver _ at_phase =>
    exact State.nextEntry_scratch (inv.no_buffer (by simp [at_phase, Phase.holdsScratch]))
  | granted => simp [Phase.holdsScratch]
  | corrected _ _ _ at_phase => simp [at_phase, Phase.holdsScratch]
  | allCorrected at_phase =>
    have held := inv.scratch
    rw [at_phase] at held
    exact held
  | initUnpulsed _ at_phase | initPulsed _ at_phase | flushStarted _ _ at_phase | lineHigh at_phase | settled at_phase
  | delayStarted _ _ at_phase | casetDone _ at_phase | rasetDone _ at_phase =>
    simp [inv.no_buffer, at_phase, Phase.holdsScratch]
  | initRejected | flushRejected | entryFailed | transactionFailed | denied | pixelsDone => simp [Phase.holdsScratch]

/-! ## The parameter buffer, the time mark, the panel -/

/-- The parameter buffer is 36 bytes, and the bytes loaded are within it. -/
theorem Transition.keeps_params : t.pbuf.length = maxParams ∧ t.plen ≤ maxParams := by
  obtain ⟨length, _⟩ := inv.params
  cases h with
  | entrySubmitted _ _ _ short => simp [State.loaded_pbuf_length short length, short]
  | casetSubmitted | rasetSubmitted =>
    have short := sidePayload_short
    simp [State.loaded_pbuf_length (short _ _) length, short]
  | _ => simpa using inv.params

/-- A time mark lies in the past. -/
theorem Transition.keeps_mark : t.tMark ≤ t.now := by
  cases h with
  | initPulsed | lineHigh | delayStarted => simp
  | _ => simpa using inv.mark

/-- The memories of the panel stay canonical. -/
theorem Transition.keeps_panel : t.panel.wf = true := by
  cases h with
  | entrySubmitted | casetSubmitted | rasetSubmitted | pixelsSubmitted => exact State.submit_panel _ _ inv.panel
  | _ => simp [State.startPulse, inv.panel]

end transition

/-! ## Where the operation in progress stands -/

/-- With no operation in progress there is nothing to say. -/
theorem State.progress_of_idle {s : State} (idle : s.phase = .idle) : s.progress := by
  simp [State.progress, idle]

/-- What there is to say, at a phase that is known. -/
theorem State.progress_of_phase {s : State} {p : Phase} (at_phase : s.phase = p) (h : { s with phase := p }.progress) :
    s.progress := by
  subst at_phase
  exact h

/-- A `Submit` that goes on is in flight in `p`; one that does not has ended the operation. -/
theorem State.submit_progress {s : State} {p : Phase} (op : Byte) {r : Req} (waits : s.phase.waitPhase = p)
    (h : { s.sent s.hdr r with phase := p }.progress) : (s.submit op r).progress := by
  rcases s.submit_cases op r with h' | ⟨e, -, h'⟩ | ⟨e, -, h'⟩ <;> rw [h']
  · exact State.progress_of_phase waits h
  · exact State.progress_of_idle (by simp)
  · exact State.progress_of_idle (by simp)

/-- The replay before entry `idx`, due by now, at that entry's issue. -/
theorem State.progress_of_issue {s : State} {due : Nat} (more : s.idx < s.cfg.initTable.length)
    (before : Replayed s.cfg s.idx due s.trace) (floor : due ≤ s.now) : (s.goto .iIssue).progress :=
  show ∃ e due, s.entry = some e ∧ Replayed s.cfg s.idx due s.trace ∧ due ≤ s.now from
    ⟨_, due, List.getElem?_eq_getElem more, before, floor⟩

/-- The replay before the first entry, at its issue: the table of this block has one (41_init_sequencer.md R166). -/
theorem State.progress_of_first {s : State} {due : Nat} (wf : s.cfg.wf = true) (first : s.idx = 0)
    (before : Replayed s.cfg 0 due s.trace) (floor : due ≤ s.now) : (s.goto .iIssue).progress := by
  have room := Config.six_le_length_of_wf wf
  exact State.progress_of_issue (by omega) (by rwa [first]) floor

/-- The replay of entry `idx`, its post-delay over, at the step past it. -/
theorem State.nextEntry_progress {s : State} {due : Nat} (before : Replayed s.cfg (s.idx + 1) due s.trace)
    (floor : due ≤ s.now) : s.nextEntry.progress := by
  rcases s.nextEntry_cases with ⟨more, h⟩ | ⟨-, h⟩ <;> rw [h]
  · exact State.progress_of_issue (s := { s with idx := s.idx + 1 }) more before floor
  · exact State.progress_of_idle (by simp)

/-- An entry in flight that completes is replayed. -/
theorem State.Inv.replayed {s : State} {e : CommandEntry} {r : Req} (inv : s.Inv) (at_phase : s.phase = .iWait)
    (at_idx : s.entry = some e) (slot : s.inflight = some r) :
    Replayed s.cfg (s.idx + 1) (s.now + e.postDelay) (.completed r .done s.now :: s.trace) := by
  obtain ⟨rfl, due, ts, tr, trace, before, floor, order⟩ := inv.trace_of_entry at_phase at_idx slot
  rw [trace]
  exact .entry s.idx due ts s.now e tr before at_idx floor order

/-- The buffer just allocated holds no pixel yet. -/
theorem ScratchHolds.fresh (o : PixOrder) (npix serial : Nat) (px : List Half) :
    ScratchHolds o npix 0 px ⟨2 * npix, serial, []⟩ :=
  ⟨rfl, Nat.zero_le _, rfl, fun _ => rfl⟩

/-- A memory that lists `l` from address 0 on lists `l ++ l'` when `l'` is written behind it. -/
theorem Memory.read_writeList_behind {α : Type} {m : Memory α} {l : List α} (content : ∀ i, Memory.read m i = l[i]?)
    (l' : List α) (i : Nat) : Memory.read (Memory.writeList m l.length l') i = (l ++ l')[i]? := by
  rw [Memory.read_writeList, content, List.getElem?_append]
  split
  next written => rw [if_neg (by omega)]
  next other =>
    split
    · rfl
    · rw [List.getElem?_eq_none (by omega), List.getElem?_eq_none (by omega)]

/-- One pixel more in its place (43_color_permutation.md R210). -/
theorem ScratchHolds.next {o : PixOrder} {npix n : Nat} {px : List Half} {b : Scratch} {v : Half}
    (h : ScratchHolds o npix n px b) (more : n < npix) (pixel : px[n]? = some v) :
    ScratchHolds o npix (n + 1) px (b.write (2 * n) (pixelBytes o (perm v))) := by
  obtain ⟨inside, rfl⟩ := List.getElem?_eq_some_iff.1 pixel
  have place : 2 * n = (pixelPayload o (px.take n)).length := by
    rw [pixelPayload_length, List.length_take_of_le inside.le]
  have payload : pixelPayload o (px.take (n + 1)) = pixelPayload o (px.take n) ++ pixelBytes o (perm px[n]) := by
    rw [List.take_succ_eq_append_getElem inside, pixelPayload_append, pixelPayload_cons]
    exact congrArg _ (List.append_nil _)
  refine ⟨h.size, more, b.wf_write _ _ h.form, fun i => ?_⟩
  rw [payload, place]
  exact Memory.read_writeList_behind h.content _ i

/-- The column address set done (42_address_window.md R190). -/
theorem State.Inv.columns_done {s : State} {r : Req} (inv : s.Inv) (at_phase : s.phase = .fCasetWait)
    (slot : s.inflight = some r) :
    ∃ px, s.src = some px ∧ Flushing s.cfg s.win px 1 (.completed r .done s.now :: s.trace) := by
  obtain ⟨px, ts, tr, source, slot', trace, before⟩ := inv.progress_at at_phase
  rw [trace, Option.some.inj (slot.symm.trans slot')]
  exact ⟨px, source, .columns ts s.now tr before⟩

/-- The row address set done (42_address_window.md R190). -/
theorem State.Inv.rows_done {s : State} {r : Req} (inv : s.Inv) (at_phase : s.phase = .fRasetWait)
    (slot : s.inflight = some r) :
    ∃ px, s.src = some px ∧ Flushing s.cfg s.win px 2 (.completed r .done s.now :: s.trace) := by
  obtain ⟨px, ts, tr, source, slot', trace, before⟩ := inv.progress_at at_phase
  rw [trace, Option.some.inj (slot.symm.trans slot')]
  exact ⟨px, source, .rows ts s.now tr before⟩

/-- The reset pulse over (41_init_sequencer.md R162). -/
theorem State.Inv.pulse_done {s : State} (inv : s.Inv) (at_phase : s.phase = .iRstLow)
    (floor : s.tMark + s.cfg.tRstLow ≤ s.now) :
    Replayed s.cfg 0 (s.now + s.cfg.tRstSettle) (.rstDrive .high s.now :: s.trace) ∧ s.idx = 0 := by
  obtain ⟨x, ta, older, trace, first⟩ := inv.progress_at at_phase
  rw [trace]
  exact ⟨.pulsed x ta s.tMark s.now older floor, first⟩

/-- A transition of the controller leaves the operation in progress where its phase says. -/
theorem Transition.keeps_progress {s t : State} (h : Transition s t) (inv : s.Inv) : t.progress := by
  cases h with
  | stay => exact inv.progress
  | initRejected | flushRejected | entryFailed | transactionFailed | denied | pixelsDone =>
    exact State.progress_of_idle (by simp)
  | initUnpulsed x _ wf => exact State.progress_of_first (due := s.now) wf rfl (.unpulsed x s.now s.trace) (Nat.le_refl _)
  | initPulsed x => exact ⟨x, s.now, s.trace, rfl, rfl⟩
  | flushStarted w src _ valid =>
    obtain ⟨-, px, rfl, in_order⟩ := flushCause_eq_none.1 valid
    exact ⟨px, rfl, .begun s.now s.trace in_order⟩
  | lineHigh at_phase floor => exact inv.pulse_done at_phase floor
  | settled at_phase floor =>
    obtain ⟨before, first⟩ := inv.progress_at at_phase
    exact State.progress_of_first (inv.cfg_wf (by simp [at_phase])) first before floor
  | entrySubmitted e at_phase at_idx =>
    obtain ⟨-, due, -, before, floor⟩ := inv.progress_at at_phase
    exact State.submit_progress (p := .iWait) _ (by simp [at_phase, Phase.waitPhase])
      ⟨e, s.now, due, s.trace, at_idx, rfl, rfl, before, floor, Nat.le_refl _⟩
  | casetSubmitted at_phase =>
    obtain ⟨px, source, before⟩ := inv.progress_at at_phase
    exact State.submit_progress (p := .fCasetWait) _ (by simp [at_phase, Phase.waitPhase])
      ⟨px, s.now, s.trace, source, rfl, rfl, before⟩
  | rasetSubmitted at_phase =>
    obtain ⟨px, source, before⟩ := inv.progress_at at_phase
    exact State.submit_progress (p := .fRasetWait) _ (by simp [at_phase, Phase.waitPhase])
      ⟨px, s.now, s.trace, source, rfl, rfl, before⟩
  | pixelsSubmitted b at_phase held =>
    obtain ⟨px, b', source, before, held', holds, count⟩ := inv.progress_at at_phase
    obtain rfl : b = b' := Option.some.inj (held.symm.trans held')
    have whole : ScratchHolds s.cfg.pixOrder s.win.npix s.win.npix px b := count ▸ holds
    rw [whole.request before]
    exact State.submit_progress (p := .fPixWait) _ (by simp [at_phase, Phase.waitPhase])
      ⟨px, s.now, s.trace, b, source, rfl, rfl, before, held, holds, count⟩
  | entryDone e r at_phase at_idx slot _ none_left =>
    have before := inv.replayed at_phase at_idx slot
    exact State.nextEntry_progress (s := s.received r .done) before (by simp [none_left])
  | delayStarted e r at_phase at_idx slot => exact ⟨e, at_idx, inv.replayed at_phase at_idx slot⟩
  | delayOver e at_phase at_idx floor =>
    obtain ⟨e', at_idx', before⟩ := inv.progress_at at_phase
    obtain rfl : e = e' := Option.some.inj (at_idx.symm.trans at_idx')
    exact State.nextEntry_progress before floor
  | casetDone r at_phase slot => exact inv.columns_done at_phase slot
  | rasetDone r at_phase slot => exact inv.rows_done at_phase slot
  | granted at_phase =>
    obtain ⟨px, source, before⟩ := inv.progress_at at_phase
    exact ⟨px, _, source, .buffer s.trace before, rfl, .fresh ..⟩
  | corrected px v b at_phase source pixel held more =>
    obtain ⟨px', b', source', before, held', holds⟩ := inv.progress_at at_phase
    obtain rfl : px = px' := Option.some.inj (source.symm.trans source')
    obtain rfl : b = b' := Option.some.inj (held.symm.trans held')
    exact State.progress_of_phase at_phase ⟨px, _, source, before, rfl, holds.next more pixel⟩
  | allCorrected at_phase done =>
    obtain ⟨px, b, source, before, held, holds⟩ := inv.progress_at at_phase
    exact ⟨px, b, source, before, held, holds, Nat.le_antisymm holds.count done⟩

/-! ## Every agent's step -/

/-- A transition of the controller keeps the invariant. -/
theorem Transition.keeps_inv {s t : State} (h : Transition s t) (inv : s.Inv) : t.Inv :=
  ⟨h.keeps_configured inv, h.keeps_attached inv, h.keeps_slot inv, h.keeps_signal inv, h.keeps_line inv,
    h.keeps_scratch inv, h.keeps_params inv, h.keeps_mark inv, h.keeps_panel inv, h.keeps_progress inv⟩

/-- The invariant says nothing of the host port and of the two answers to come. -/
theorem State.Inv.withLines {s : State} (inv : s.Inv) (p : Option HostPort) (a : SubmitAnswer) (m : AllocAnswer) :
    { s with hostPort := p, submitAns := a, allocAns := m }.Inv :=
  ⟨inv.configured, inv.attached, inv.slot, inv.signal, inv.line, inv.scratch, inv.params, inv.mark, inv.panel,
    inv.progress⟩

/-- Where an operation stands at a time, it stands later. -/
theorem State.progress_later {s : State} (d : Nat) (h : s.progress) : { s with now := s.now + d }.progress := by
  cases at_phase : s.phase with
  | iIssue =>
    simp only [State.progress, at_phase] at h ⊢
    obtain ⟨e, due, at_idx, before, floor⟩ := h
    exact ⟨e, due, at_idx, before, by omega⟩
  | iWait =>
    simp only [State.progress, at_phase] at h ⊢
    obtain ⟨e, ts, due, tr, at_idx, slot, trace, before, floor, order⟩ := h
    exact ⟨e, ts, due, tr, at_idx, slot, trace, before, floor, by omega⟩
  | idle => trivial
  | _ =>
    simp only [State.progress, at_phase] at h ⊢
    exact h

/-- Time goes on. -/
theorem State.Inv.later {s : State} (inv : s.Inv) (d : Nat) : { s with now := s.now + d }.Inv :=
  ⟨inv.configured, inv.attached, inv.slot, inv.signal, inv.line, inv.scratch, inv.params,
    Nat.le_add_right_of_le inv.mark, inv.panel, State.progress_later d inv.progress⟩

/-- A request in flight is completed. -/
theorem State.Inv.signalled {s : State} (inv : s.Inv) {r : Req} (c : Completion) (slot : s.inflight = some r) :
    { s with completion := some c, panel := Panel.settle s.cfg s.panel r c s.now }.Inv :=
  ⟨inv.configured, inv.attached, inv.slot, fun _ => by simp [slot], inv.line, inv.scratch, inv.params, inv.mark,
    Panel.wf_settle _ _ _ _ _ inv.panel, inv.progress⟩

/-- `por` leaves the registers as `State.reset` has them. -/
theorem State.Inv.powerOnReset {s : State} (inv : s.Inv) : s.powerOnReset.Inv where
  configured := nofun
  attached := nofun
  slot := rfl
  signal := nofun
  line := ⟨nofun, nofun⟩
  scratch := rfl
  params := ⟨rfl, Nat.zero_le _⟩
  mark := Nat.zero_le _
  panel := s.powerOnReset_panel_wf inv.panel
  progress := trivial

/-- A move of another agent keeps the invariant. -/
theorem environment_keeps_inv {m : Move} {s t : State} (h : environment m s = .next t) (inv : s.Inv) : t.Inv := by
  cases m with
  | block => cases h; exact inv
  | clock d => cases h; exact inv.later d
  | host p =>
    simp only [environment] at h
    split at h <;> cases h
    exact inv.withLines _ _ _
  | answer a => cases h; exact inv.withLines _ _ _
  | complete c =>
    simp only [environment] at h
    split at h
    next slot _ => cases h; exact inv.signalled c slot
    · cases h
  | allocator a => cases h; exact inv.withLines _ _ _
  | por => cases h; exact inv.powerOnReset

/-- Settles O54: each transition of the controller and each move of another agent keeps the invariant. -/
theorem invariantKept : Obligations.InvariantKept := by
  intro s t inv h
  rcases step_next h with ⟨ms, hc⟩ | ⟨m, ms, -, he⟩
  · exact (control_next hc).keeps_inv (inv.withMoves ms)
  · exact environment_keeps_inv he (inv.withMoves ms)

end Sys2Proof.Machine
end

section
/-! SUPPORT. Two states that differ in the transport's failure values and in the observer's panel, and that every step keeps
them so: the block reads neither (92_eei_decisions.md D34, 20_memory.md section 1). -/

namespace Sys2Proof.Machine

/-! ## Twin states -/

/-- The state with its failure values renamed and another panel. -/
def State.twin (f : XErr → XErr) (q : Panel) (s : State) : State := (s.mapErr f).withPanel q

/-- `s.Twin f P t`: `t` is `s` with its failure values renamed by `f` and a panel that `P` relates to that of `s`. -/
inductive State.Twin (f : XErr → XErr) (P : Panel → Panel → Prop) (s : State) : State → Prop where
  | mk (q : Panel) (panel : P s.panel q) : s.Twin f P (s.twin f q)

/-- The relation of the panels is kept by whatever happens to both of them alike. -/
def Kept (P : Panel → Panel → Prop) : Prop := ∀ (G : Panel → Panel) (p q : Panel), P p q → P (G p) (G q)

/-- Outcomes alike: twin next states, or the same stop. -/
inductive TwinOutcome (f : XErr → XErr) (P : Panel → Panel → Prop) : Result1 → Result1 → Prop where
  | next {s t : State} (h : s.Twin f P t) : TwinOutcome f P (.next s) (.next t)
  | fault (r : Fault) : TwinOutcome f P (.fault r) (.fault r)
  | refused (r : Refusal) : TwinOutcome f P (.refused r) (.refused r)

/-- What a step reads is the same in both, but for the failure values. -/
theorem State.twin_reads (f : XErr → XErr) (q : Panel) (s : State) :
    (s.twin f q).phase = s.phase ∧ (s.twin f q).cfg = s.cfg ∧ (s.twin f q).win = s.win ∧ (s.twin f q).entry = s.entry ∧
      (s.twin f q).pcount = s.pcount ∧ (s.twin f q).srcRead = s.srcRead ∧ (s.twin f q).scratch = s.scratch ∧
      (s.twin f q).inflight = s.inflight ∧ (s.twin f q).completion = s.completion.map (Completion.mapErr f) ∧
      (s.twin f q).hostPort = s.hostPort ∧ (s.twin f q).allocAns = s.allocAns ∧ (s.twin f q).fetch = s.fetch ∧
      (s.twin f q).moves = s.moves.map (Move.mapErr f) ∧ flushCause (s.twin f q) = flushCause s :=
  ⟨rfl, rfl, rfl, rfl, rfl, rfl, rfl, rfl, rfl, rfl, rfl, rfl, rfl, rfl⟩

section twins
variable {f : XErr → XErr} {P : Panel → Panel → Prop} {s t : State}

/-- What leaves the panel alone, and treats twins alike, keeps them twins. -/
theorem State.Twin.map (h : s.Twin f P t) (g : State → State) (alike : ∀ q, g (s.twin f q) = (g s).twin f q)
    (panel : (g s).panel = s.panel) : (g s).Twin f P (g t) := by
  obtain ⟨q, hq⟩ := h
  rw [alike]
  exact .mk q (panel ▸ hq)

/-- What does `G` to the panel, and treats twins alike, keeps them twins. -/
theorem State.Twin.mapPanel (h : s.Twin f P t) (kept : Kept P) (G : Panel → Panel) (g : State → State)
    (alike : ∀ q, g (s.twin f q) = (g s).twin f (G q)) (panel : (g s).panel = G s.panel) :
    (g s).Twin f P (g t) := by
  obtain ⟨q, hq⟩ := h
  rw [alike]
  exact .mk (G q) (panel ▸ kept G _ _ hq)

theorem State.Twin.ite {c : Prop} [Decidable c] {u v u' v' : State} (pos : u.Twin f P u') (neg : v.Twin f P v') :
    (if c then u else v).Twin f P (if c then u' else v') := by
  split
  · exact pos
  · exact neg

theorem TwinOutcome.ite {c : Prop} [Decidable c] {a b a' b' : Result1} (pos : TwinOutcome f P a a')
    (neg : TwinOutcome f P b b') : TwinOutcome f P (if c then a else b) (if c then a' else b') := by
  split
  · exact pos
  · exact neg

theorem State.Twin.log (h : s.Twin f P t) (e : Event) : (s.log e).Twin f P (t.log (e.mapErr f)) := by
  obtain ⟨q, hq⟩ := h
  exact .mk (s := s.log e) q hq

/-! ## The ends of an operation -/

/-- The releases of a buffer carry no failure value. -/
theorem map_released (b : Option Scratch) (n : Nat) : (released b n).map (Event.mapErr f) = released b n := by
  cases b <;> rfl

/-- Operations that end with results alike leave twins. -/
theorem State.Twin.finish (h : s.Twin f P t) (r : Result) : (s.finish r).Twin f P (t.finish (r.mapErr f)) := by
  obtain ⟨q, hq⟩ := h
  have alike : (s.twin f q).finish (r.mapErr f) = (s.finish r).twin f q := by
    simp [State.finish_eq, State.twin, State.withPanel, State.mapErr, map_released, Event.mapErr]
  rw [alike]
  exact .mk q (by simpa using hq)

theorem State.Twin.returnOk (h : s.Twin f P t) : s.returnOk.Twin f P t.returnOk := h.finish .ok

theorem State.Twin.xportFail (h : s.Twin f P t) (e : XErr) : (s.xportFail e).Twin f P (t.xportFail (f e)) :=
  h.finish (.xportFail e)

theorem State.Twin.initSeqFail (h : s.Twin f P t) (kept : Kept P) (op : Byte) (e : XErr) :
    (s.initSeqFail op e).Twin f P (t.initSeqFail op (f e)) := by
  have failed := h.mapPanel kept Panel.abandon State.initFailed (fun _ => rfl) rfl
  have ended := failed.finish (.initSeqFail s.idx op e)
  cases h
  exact ended

theorem State.Twin.failTransaction (h : s.Twin f P t) (kept : Kept P) (op : Byte) (e : XErr) :
    (s.failTransaction op e).Twin f P (t.failTransaction op (f e)) := by
  have init := h.initSeqFail kept op e
  have flush := h.xportFail e
  cases h
  exact .ite init flush

theorem State.Twin.nextEntry (h : s.Twin f P t) : s.nextEntry.Twin f P t.nextEntry := by
  have next := h.map (fun s => { s with idx := s.idx + 1 }.goto .iIssue) (fun _ => rfl) rfl
  have last := (h.map State.tableDone (fun _ => rfl) rfl).returnOk
  cases h
  exact .ite next last

/-! ## Transact -/

theorem State.Twin.submit (h : s.Twin f P t) (kept : Kept P) (op : Byte) (r : Req) :
    (s.submit op r).Twin f P (t.submit op r) := by
  cases answered : s.submitAns with
  | accepted =>
    have sent := h.mapPanel kept (Panel.sending · s.now) (fun u => u.sent u.hdr r) (fun _ => rfl) rfl
    cases h
    rw [State.submit_accepted op r answered, State.submit_accepted op r (congrArg (SubmitAnswer.mapErr f) answered)]
    exact sent
  | refused e =>
    have ended := (h.log (.submitted r (.refused e) s.now)).failTransaction kept op e
    cases h
    rw [State.submit_refused op r answered, State.submit_refused op r (congrArg (SubmitAnswer.mapErr f) answered)]
    exact ended

theorem State.Twin.received (h : s.Twin f P t) (r : Req) (c : Completion) :
    (s.received r c).Twin f P (t.received r (c.mapErr f)) := by
  obtain ⟨q, hq⟩ := h
  exact .mk (s := s.received r c) q hq

theorem TwinOutcome.transactIssue (h : s.Twin f P t) (kept : Kept P) (m op : Byte) (data : List Byte) (l : DataLines) :
    TwinOutcome f P (transactIssue m op data l s) (transactIssue m op data l t) := by
  have submitted := (h.map (fun s => { s with hdr := frameHeader m op }) (fun _ => rfl) rfl).submit kept op
    (Req.ofHeader (frameHeader m op) data l)
  cases h
  exact .ite (.refused _) (.next submitted)

/-- The wait step, where what goes on after it treats twins alike. -/
theorem TwinOutcome.awaitDone (h : s.Twin f P t) {k : Completion → State → Result1}
    (goes_on : ∀ c {u v : State}, u.Twin f P v → TwinOutcome f P (k c u) (k (c.mapErr f) v)) :
    TwinOutcome f P (awaitDone s k) (awaitDone t k) := by
  have waits := TwinOutcome.next h
  have completed (r : Req) (c : Completion) := goes_on c (h.received r c)
  cases h
  cases signal : s.completion <;> cases slot : s.inflight <;>
    simp only [Machine.awaitDone, State.twin_reads, signal, slot, Option.map]
  · exact waits
  · exact waits
  · exact .refused _
  · exact completed _ _

theorem TwinOutcome.commandWrite (h : s.Twin f P t) (kept : Kept P) (op : Byte) (ps : List Byte) :
    TwinOutcome f P (commandWrite op ps s) (commandWrite op ps t) := by
  have sent := TwinOutcome.transactIssue (h.map (State.loadParams ps) (fun _ => rfl) rfl) kept s.cfg.markerCmd op
    (s.loadParams ps).params .single
  cases h
  exact .ite (.refused _) sent

theorem TwinOutcome.pixelWrite (h : s.Twin f P t) (kept : Kept P) (op : Byte) (bytes : List Byte) :
    TwinOutcome f P (pixelWrite op bytes s) (pixelWrite op bytes t) := by
  have sent := TwinOutcome.transactIssue h kept s.cfg.markerPix op bytes .quad
  cases h
  exact .ite (.refused _) (.ite (.refused _) sent)

theorem TwinOutcome.inPhase (h : s.Twin f P t) (p : Phase) {k : State → Result1} (runs : TwinOutcome f P (k s) (k t)) :
    TwinOutcome f P (inPhase p s k) (inPhase p t k) := by
  cases h
  exact .ite runs (.refused _)

theorem TwinOutcome.initEntry (h : s.Twin f P t) (kept : Kept P) (op : Byte) (ps : List Byte) :
    TwinOutcome f P (initEntry op ps s) (initEntry op ps t) :=
  .inPhase h .iIssue (.commandWrite h kept op ps)

theorem TwinOutcome.addressSet (h : s.Twin f P t) (kept : Kept P) (p : Phase) (op : Byte) (start stop : Half) :
    TwinOutcome f P (addressSet p op start stop s) (addressSet p op start stop t) :=
  .ite (.refused _) (.inPhase h p (.commandWrite h kept op _))

theorem TwinOutcome.execCmdwr (h : s.Twin f P t) (kept : Kept P) (op : Byte) (ps : List Byte) :
    TwinOutcome f P (execCmdwr op ps s) (execCmdwr op ps t) := by
  have sent := TwinOutcome.commandWrite h kept op ps
  cases h
  simp only [Machine.execCmdwr, State.twin_reads]
  split
  · exact sent
  · exact sent
  · exact sent
  · exact .refused _

/-! ## The host operations -/

theorem TwinOutcome.execInit (h : s.Twin f P t) (kept : Kept P) (rst : Bool) (x : Option XHandle) :
    TwinOutcome f P (execInit rst x s) (execInit rst x t) := by
  have ignored := TwinOutcome.next h
  cases x with
  | none =>
    have rejected := (h.map (fun u => { u.accept (.init rst none) with rstCfg := rst }) (fun _ => rfl) rfl).finish
      (.invalidArg .nullHandle)
    cases h
    exact .ite ignored (.next rejected)
  | some hd =>
    have pulsed := h.mapPanel kept (·.resetLine .low s.now) (State.initStarted true hd) (fun _ => rfl) rfl
    have unpulsed := h.mapPanel kept Panel.abandon (State.initStarted false hd) (fun _ => rfl) rfl
    cases h
    cases rst
    · exact .ite ignored (.ite (.refused _) (.next unpulsed))
    · exact .ite ignored (.ite (.refused _) (.next pulsed))

theorem TwinOutcome.execFlush (h : s.Twin f P t) (x0 y0 x1 y1 : Half) (src : Option (List Half)) :
    TwinOutcome f P (execFlush x0 y0 x1 y1 src s) (execFlush x0 y0 x1 y1 src t) := by
  have ignored := TwinOutcome.next h
  have accepted := h.map (State.accept (.flush x0 y0 x1 y1 src)) (fun _ => rfl) rfl
  have started := accepted.map
    (fun u => { u with win := ⟨x0, y0, x1, y1⟩, src := src, pcount := 0 }.goto .fCasetIssue) (fun _ => rfl) rfl
  have rejected (c : Cause) := accepted.finish (.invalidArg c)
  cases h
  cases cause : flushCause s ⟨x0, y0, x1, y1⟩ src <;> simp only [Machine.execFlush, State.twin_reads, cause]
  · exact .ite ignored (.ite (.refused _) (.next started))
  · exact .ite ignored (.next (rejected _))

/-- Every operation treats twins alike. -/
theorem TwinOutcome.exec (h : s.Twin f P t) (kept : Kept P) (i : Instr) : TwinOutcome f P (exec i s) (exec i t) := by
  have side (p : Phase) (op : Byte) (a b : Half) := TwinOutcome.addressSet h kept p op a b
  have pixels (op : Byte) (bytes : List Byte) := TwinOutcome.inPhase h .fPixIssue (.pixelWrite h kept op bytes)
  have entry (op : Byte) (ps : List Byte) := TwinOutcome.initEntry h kept op ps
  cases i with
  | cmdwr op ps => exact .execCmdwr h kept op ps
  | caset | raset => cases h; exact side _ _ _ _
  | ramwr bytes | ramwrc bytes => exact pixels _ bytes
  | colmod | madctl | teon | invon | slpout | dispon | vendor => cases h; exact entry _ _
  | init rst x => exact .execInit h kept rst x
  | flush x0 y0 x1 y1 src => exact .execFlush h x0 y0 x1 y1 src

/-! ## The controller's own steps -/

theorem TwinOutcome.stepAddressWait (h : s.Twin f P t) (p : Phase) :
    TwinOutcome f P (stepAddressWait p s) (stepAddressWait p t) := by
  refine .awaitDone h fun c u v huv => ?_
  cases c with
  | done => exact .next (huv.map (State.goto p) (fun _ => rfl) rfl)
  | failed e => exact .next (huv.xportFail e)

theorem TwinOutcome.stepPixWait (h : s.Twin f P t) : TwinOutcome f P (stepPixWait s) (stepPixWait t) := by
  refine .awaitDone h fun c u v huv => ?_
  cases c with
  | done => exact .next huv.returnOk
  | failed e => exact .next (huv.xportFail e)

theorem TwinOutcome.stepInitWait (h : s.Twin f P t) (kept : Kept P) :
    TwinOutcome f P (stepInitWait s) (stepInitWait t) := by
  refine .awaitDone h fun c u v huv => ?_
  have delayed := huv.map (fun u => u.markTime.goto .iDelay) (fun _ => rfl) rfl
  have next := huv.nextEntry
  have failed (e : CommandEntry) (x : XErr) := huv.initSeqFail kept e.opcode x
  cases huv
  cases at_idx : u.entry <;> simp only [State.twin_reads, at_idx]
  · exact .fault _
  · cases c with
    | done => exact .next (.ite delayed next)
    | failed x => exact .next (failed _ x)

theorem TwinOutcome.stepInitDelay (h : s.Twin f P t) : TwinOutcome f P (stepInitDelay s) (stepInitDelay t) := by
  have next := h.nextEntry
  have waits := h
  cases h
  cases at_idx : s.entry <;> simp only [Machine.stepInitDelay, State.twin_reads, at_idx]
  · exact .fault _
  · exact .next (.ite next waits)

theorem TwinOutcome.stepAlloc (h : s.Twin f P t) : TwinOutcome f P (stepAlloc s) (stepAlloc t) := by
  have granted := h.map State.allocated (fun _ => rfl) rfl
  have denied := (h.log (.allocated (2 * s.win.npix) .noMem)).finish .allocFail
  cases h
  cases answer : s.allocAns with
  | ok =>
    rw [stepAlloc_granted answer, stepAlloc_granted (s := s.twin f _) answer]
    exact .next granted
  | noMem =>
    rw [stepAlloc_noMem answer, stepAlloc_noMem (s := s.twin f _) answer]
    exact .next denied

theorem TwinOutcome.stepPerm (h : s.Twin f P t) : TwinOutcome f P (stepPerm s) (stepPerm t) := by
  have done := h.map (State.goto .fPixIssue) (fun _ => rfl) rfl
  have more (v : Half) (b : Scratch) := h.map
    (fun u => { u with
      px := v
      scratch := some (b.write (2 * s.pcount) (pixelBytes s.cfg.pixOrder (perm v)))
      pcount := s.pcount + 1 }) (fun _ => rfl) rfl
  cases h
  cases source : s.srcRead s.pcount <;> cases held : s.scratch <;>
    simp only [Machine.stepPerm, State.twin_reads, source, held]
  · exact .ite (.next done) (.fault _)
  · exact .ite (.next done) (.fault _)
  · exact .ite (.next done) (.fault _)
  · exact .ite (.next done) (.ite (.fault _) (.next (more _ _)))

/-- The controller's step in a phase that fetches nothing treats twins alike. -/
theorem TwinOutcome.proceed (h : s.Twin f P t) (kept : Kept P) : TwinOutcome f P s.proceed t.proceed := by
  have waits := TwinOutcome.next h
  have line_high := h.mapPanel kept (·.resetLine .high s.now) (fun u => (u.driveRst .high).markTime.goto .iRstSettle)
    (fun _ => rfl) rfl
  have settled := h.map (State.goto .iIssue) (fun _ => rfl) rfl
  have entry_wait := TwinOutcome.stepInitWait h kept
  have side_wait (p : Phase) := TwinOutcome.stepAddressWait h p
  have entry_delay := TwinOutcome.stepInitDelay h
  have alloc := TwinOutcome.stepAlloc h
  have correct := TwinOutcome.stepPerm h
  have pixels_wait := TwinOutcome.stepPixWait h
  have same := h
  cases h
  cases at_phase : s.phase <;> simp only [State.proceed, State.twin_reads, at_phase]
  case iRstLow => exact .next (.ite line_high same)
  case iRstSettle => exact .next (.ite settled same)
  case iWait => exact entry_wait
  case iDelay => exact entry_delay
  case fCasetWait => exact side_wait _
  case fRasetWait => exact side_wait _
  case fAlloc => exact alloc
  case fPerm => exact correct
  case fPixWait => exact pixels_wait
  all_goals exact waits

/-- The controller treats twins alike. -/
theorem TwinOutcome.control (h : s.Twin f P t) (kept : Kept P) : TwinOutcome f P (control s) (control t) := by
  have runs (i : Instr) := TwinOutcome.exec h kept i
  have goes_on := TwinOutcome.proceed h kept
  cases h
  cases fetched : s.fetch <;> simp only [Machine.control, State.twin_reads, fetched]
  · exact runs _
  · exact .fault _
  · exact goes_on

/-! ## The other agents -/

/-- A completion does the same to the panel, whatever its failure value. -/
theorem Panel.settle_mapErr (c : Config) (p : Panel) (r : Req) (o : Completion) (n : Nat) :
    Panel.settle c p r (o.mapErr f) n = Panel.settle c p r o n := by
  cases o <;> rfl

theorem State.Twin.withMoves (h : s.Twin f P t) (ms : List Move) :
    (s.withMoves ms).Twin f P (t.withMoves (ms.map (Move.mapErr f))) := by
  obtain ⟨q, hq⟩ := h
  exact .mk (s := s.withMoves ms) q hq

theorem State.Twin.answered (h : s.Twin f P t) (a : SubmitAnswer) :
    { s with submitAns := a }.Twin f P { t with submitAns := a.mapErr f } := by
  obtain ⟨q, hq⟩ := h
  exact .mk (s := { s with submitAns := a }) q hq

/-- The state in which the transport has signalled the completion `c` of `r`. -/
def State.signalled (r : Req) (c : Completion) (s : State) : State :=
  { s with completion := some c, panel := Panel.settle s.cfg s.panel r c s.now }

/-- The completion of the request in flight (20_memory.md R80). -/
theorem environment_complete {s : State} {r : Req} (c : Completion) (slot : s.inflight = some r)
    (quiet : s.completion = none) : environment (.complete c) s = .next (s.signalled r c) := by
  simp [environment, State.signalled, slot, quiet]

/-- A completion with nothing in flight, or a second one (93_implementation_defined.md U8). -/
theorem environment_spurious {s : State} (c : Completion)
    (unexpected : ¬ ∃ r, s.inflight = some r ∧ s.completion = none) :
    environment (.complete c) s = .refused .spuriousCompletion := by
  simp only [environment]
  split
  next r slot quiet => exact absurd ⟨r, slot, quiet⟩ unexpected
  next => rfl

theorem State.Twin.signalled (h : s.Twin f P t) (kept : Kept P) (r : Req) (c : Completion) :
    (s.signalled r c).Twin f P (t.signalled r (c.mapErr f)) := by
  obtain ⟨q, hq⟩ := h
  rw [State.signalled, State.signalled, Panel.settle_mapErr]
  exact .mk (s := s.signalled r c) _ (kept (Panel.settle s.cfg · r c s.now) _ _ hq)

theorem State.Twin.powerOnReset (h : s.Twin f P t) (kept : Kept P) : s.powerOnReset.Twin f P t.powerOnReset :=
  h.mapPanel kept
    (fun p => if s.phase = .idle ∧ s.inflight = none then p.lineReleased s.now else p.interrupted s.now)
    State.powerOnReset (fun _ => rfl) rfl

/-- Every other agent's move treats twins alike. -/
theorem TwinOutcome.environment (h : s.Twin f P t) (kept : Kept P) (m : Move) :
    TwinOutcome f P (environment m s) (environment (m.mapErr f) t) := by
  cases m with
  | block => exact .next h
  | clock d => exact .next (h.map (fun s => { s with now := s.now + d }) (fun _ => rfl) rfl)
  | host p =>
    have presented := h.map (fun s => { s with hostPort := some p }) (fun _ => rfl) rfl
    cases h
    cases port : s.hostPort <;> simp only [Move.mapErr, Machine.environment, State.twin_reads, port]
    · exact .next presented
    · exact .refused _
  | answer a => exact .next (h.answered a)
  | complete c =>
    by_cases expected : ∃ r, s.inflight = some r ∧ s.completion = none
    · obtain ⟨r, slot, quiet⟩ := expected
      have slot' : t.inflight = some r := by cases h; exact slot
      have quiet' : t.completion = none := by cases h; simp [State.twin_reads, quiet]
      rw [environment_complete c slot quiet, Move.mapErr, environment_complete _ slot' quiet']
      exact .next (h.signalled kept r c)
    · have unexpected : ¬ ∃ r, t.inflight = some r ∧ t.completion = none := by
        cases h
        simpa [State.twin_reads] using expected
      rw [environment_spurious c expected, Move.mapErr, environment_spurious _ unexpected]
      exact .refused _
  | allocator a => exact .next (h.map (fun s => { s with allocAns := a }) (fun _ => rfl) rfl)
  | por => exact .next (h.powerOnReset kept)

/-- Every step treats twins alike. -/
theorem TwinOutcome.step (h : s.Twin f P t) (kept : Kept P) : TwinOutcome f P (step s) (step t) := by
  have controls := TwinOutcome.control h kept
  have popped (ms : List Move) := h.withMoves ms
  cases h
  cases moves : s.moves with
  | nil =>
    simp only [Machine.step, State.twin_reads, moves, List.map]
    exact controls
  | cons m ms =>
    simp only [Machine.step, State.twin_reads, moves, List.map]
    cases m with
    | block => exact .control (popped ms) kept
    | _ => exact .environment (popped ms) kept _

end twins

/-! ## The transport's failure values -/

/-- Outcomes alike, the panels equal, differ in the failure values alone. -/
theorem TwinOutcome.eq_mapNext {f : XErr → XErr} {o o' : Result1} (h : TwinOutcome f Eq o o') :
    o' = mapNext (State.mapErr f) o := by
  cases h with
  | fault | refused => rfl
  | next h => cases h with | mk q same => cases same; rfl

/-- Settles O52: a state and the same state with its failure values renamed are twins with one panel, and every step keeps
twins. -/
theorem transportValuesAreOpaque : Obligations.TransportValuesAreOpaque := by
  intro f s
  have twins : s.Twin f Eq (s.mapErr f) := .mk s.panel rfl
  exact (TwinOutcome.step twins fun G _ _ same => congrArg G same).eq_mapNext

/-! ## The observer's panel -/

/-- Nothing renamed. -/
@[simp] theorem State.mapErr_id (s : State) : s.mapErr id = s := by
  have results (r : Result) : r.mapErr id = r := by cases r <;> rfl
  have answers (a : SubmitAnswer) : a.mapErr id = a := by cases a <;> rfl
  have completions : Completion.mapErr id = id := by funext c; cases c <;> rfl
  have moves : Move.mapErr id = id := by funext m; cases m <;> simp [Move.mapErr, answers, completions]
  have events : Event.mapErr id = id := by funext e; cases e <;> simp [Event.mapErr, answers, completions, results]
  simp [State.mapErr, results, answers, completions, moves, events]

theorem State.twin_id (q : Panel) (s : State) : s.twin id q = s.withPanel q := by
  rw [State.twin, State.mapErr_id]

/-- Outcomes alike, no failure value renamed, differ in the panel alone. -/
theorem TwinOutcome.same_but_panel {P : Panel → Panel → Prop} {o o' : Result1} (h : TwinOutcome id P o o') :
    (∀ t, o = .next t → ∃ q, o' = .next (t.withPanel q)) ∧ (∀ r, o = .fault r ↔ o' = .fault r) ∧
      (∀ r, o = .refused r ↔ o' = .refused r) := by
  cases h with
  | fault | refused => simp
  | @next s t h =>
    cases h with
    | mk q =>
      refine ⟨?_, by simp, by simp⟩
      rintro _ ⟨⟩
      exact ⟨q, by rw [State.twin_id]⟩

/-- Settles O51: a state and the same state with another panel are twins, and every step keeps twins. -/
theorem panelIsNeverRead : Obligations.PanelIsNeverRead := by
  intro s p
  have twins : s.Twin id (fun _ _ => True) (s.withPanel p) := State.twin_id p s ▸ .mk p trivial
  exact (TwinOutcome.step twins fun _ _ _ _ => trivial).same_but_panel

end Sys2Proof.Machine
end

section
/-! SUPPORT. What follows from the invariant and from the ends of an operation: a failed INIT, the faults, the scratch
buffer; and what every step keeps whatever the state: time, the trace, a busy host port, a stalled transport
(41_init_sequencer.md R168, 10_state.md sections 5, 7 and 11, 60_exceptions.md section 4). -/

namespace Sys2Proof.Machine

/-! ## A failed INIT -/

/-- Under the invariant an INIT that fails has entry `k` as its last request, refused or failed just now. -/
theorem Ending.init_failed {s u : State} {k : Nat} {op : Byte} {x : XErr} (h : Ending s u (.initSeqFail k op x))
    (inv : s.Inv) :
    (u.initStatus = .failed ∧ u.idx = k ∧ u.handle = s.handle ∧ s.scratch = none) ∧
      ∃ e due older, s.cfg.initTable[k]? = some e ∧ e.opcode = op ∧ Replayed s.cfg k due older ∧
        (u.trace = .submitted (entryReq s.cfg e) (.refused x) s.now :: older ∨
          ∃ ts, u.trace = .completed (entryReq s.cfg e) (.failed x) s.now ::
            .submitted (entryReq s.cfg e) .accepted ts :: older) := by
  have no_buffer {p : Phase} (at_phase : s.phase = p) (no_hold : p.holdsScratch = false) : s.scratch = none :=
    inv.no_buffer (at_phase ▸ no_hold)
  cases h with
  | entryRefused e x at_phase at_idx =>
    obtain ⟨-, due, -, before, -⟩ := inv.progress_at at_phase
    exact ⟨⟨rfl, rfl, rfl, no_buffer at_phase rfl⟩, e, due, s.trace, at_idx, rfl, before, .inl rfl⟩
  | entryFailed e r x at_phase at_idx slot =>
    obtain ⟨rfl, due, ts, tr, trace, before, -⟩ := inv.trace_of_entry at_phase at_idx slot
    exact ⟨⟨rfl, rfl, rfl, no_buffer at_phase rfl⟩, e, due, tr, at_idx, rfl, before, .inr ⟨ts, congrArg _ trace⟩⟩

/-- Settles O60: the step is the end of an INIT whose entry `k` was refused or failed; that end writes the record, and the
return is the one event after the request's. -/
theorem failedInitStops : Obligations.FailedInitStops := by
  intro s t k op x n inv h hr
  obtain ⟨rfl, -, ms, u, rfl, -, ending⟩ := step_ending h hr
  obtain ⟨-, -, high⟩ := ending.quiet (inv.withMoves ms)
  obtain ⟨⟨failed, idx, handle, no_buffer⟩, e, due, older, at_k, opcode, before, last⟩ :=
    ending.init_failed (inv.withMoves ms)
  have trace : (u.finish (.initSeqFail k op x)).trace = .returned (.initSeqFail k op x) s.now :: u.trace := by
    rw [State.finish_trace, State.free_of_no_scratch (ending.buffer.trans no_buffer), ending.now]
    rfl
  refine ⟨by simp, by simp [failed], by simp, by simp, by simp [idx], by simp [high], (State.finish_handle _ u).trans handle, e, due,
    older, at_k, opcode, before, ?_⟩
  rw [trace]
  exact last.imp (congrArg _) fun ⟨ts, last⟩ => ⟨ts, congrArg _ last⟩

/-! ## No fault -/

/-- An INIT past its acceptance stands at an entry of the table, except in the reset pulse. -/
theorem State.Inv.entry_exists {s : State} (inv : s.Inv)
    (at_phase : s.phase = .iIssue ∨ s.phase = .iWait ∨ s.phase = .iDelay) : s.entry ≠ none := by
  rcases at_phase with h | h | h
  · obtain ⟨e, -, at_idx, -⟩ := inv.progress_at h
    exact Option.ne_none_iff_exists'.2 ⟨e, at_idx⟩
  · obtain ⟨e, -, -, -, at_idx, -⟩ := inv.progress_at h
    exact Option.ne_none_iff_exists'.2 ⟨e, at_idx⟩
  · obtain ⟨e, at_idx, -⟩ := inv.progress_at h
    exact Option.ne_none_iff_exists'.2 ⟨e, at_idx⟩

/-- While pixels are left to correct, the source has the next one and the buffer has its place. -/
theorem State.Inv.next_pixel {s : State} (inv : s.Inv) (at_phase : s.phase = .fPerm) (more : s.pcount < s.win.npix) :
    s.srcRead s.pcount ≠ none ∧ ∀ b, s.scratch = some b → 2 * s.pcount + 2 ≤ b.size := by
  obtain ⟨px, b, source, before, held, holds⟩ := inv.progress_at at_phase
  obtain ⟨-, -, npix⟩ := windowCause_eq_none.1 before.trace_at_buffer.1
  have inside : s.pcount < px.length := npix ▸ more
  have size : b.size = 2 * s.win.npix := holds.size
  refine ⟨?_, fun b' held' => ?_⟩
  · simp [State.srcRead, show s.src = some px from source, inside]
  · obtain rfl : b' = b := Option.some.inj (held'.symm.trans held)
    omega

/-- While pixels are corrected, and at their write, the buffer is there. -/
theorem State.Inv.buffer_exists {s : State} (inv : s.Inv) (at_phase : s.phase = .fPerm ∨ s.phase = .fPixIssue) :
    s.scratch ≠ none := by
  refine Option.isSome_iff_ne_none.1 (inv.scratch.trans ?_)
  rcases at_phase with h | h <;> rw [h] <;> rfl

/-- No move of another agent faults. -/
theorem environment_no_fault {m : Move} {s : State} {f : Fault} : environment m s ≠ .fault f := by
  cases m with
  | host p | complete c =>
    simp only [environment]
    split <;> nofun
  | _ => nofun

/-- Settles O55: the controller faults on an entry, a pixel or a buffer that does not exist, and the invariant has them all;
no move of another agent faults. -/
theorem noFaultUnderInvariant : Obligations.NoFaultUnderInvariant := by
  intro s f inv h
  rcases step_fault h with ⟨ms, hc⟩ | ⟨m, ms, -, he⟩
  · rcases control_fault hc with ⟨-, at_phase, no_entry⟩ | ⟨-, at_phase, more, no_pixel⟩ | ⟨-, at_phase, no_room⟩
    · exact inv.entry_exists at_phase no_entry
    · exact (inv.next_pixel at_phase more).1 no_pixel
    · rcases no_room with no_buffer | ⟨b, held, more, small⟩
      · exact inv.buffer_exists at_phase no_buffer
      · rcases at_phase with correcting | issuing
        · exact absurd ((inv.next_pixel correcting more).2 b held) (Nat.not_le.2 small)
        · obtain ⟨-, -, -, -, -, -, all⟩ := inv.progress_at issuing
          exact absurd all (Nat.ne_of_lt more)
  · exact environment_no_fault he

/-- The phases that hold a buffer (10_state.md R38). -/
theorem Phase.holdsScratch_iff (p : Phase) :
    p.holdsScratch = true ↔ p = .fPerm ∨ p = .fPixIssue ∨ p = .fPixWait := by
  cases p <;> simp [Phase.holdsScratch]

/-- Settles O56: the buffer exists in the phases that hold it, after a step as before it. -/
theorem scratchOnlyInItsPhases : Obligations.ScratchOnlyInItsPhases := by
  intro s t inv h held
  have kept := (invariantKept s t inv h).scratch
  exact t.phase.holdsScratch_iff.1 (kept.symm.trans (Option.isSome_iff_ne_none.2 held))

/-! ## Time and the trace -/

theorem Transition.now_eq {s t : State} (h : Transition s t) : t.now = s.now := by
  cases h <;> simp

/-- What every move of another agent leaves alone: the time, but for the clock, and a request that waits at the port. -/
theorem environment_now_hostPort {m : Move} {s t : State} (h : environment m s = .next t) :
    s.now ≤ t.now ∧ (s.hostPort ≠ none → t.hostPort = s.hostPort) := by
  cases m with
  | host p =>
    simp only [environment] at h
    split at h
    next free => cases h; exact ⟨Nat.le_refl _, absurd free⟩
    next => cases h
  | complete c =>
    simp only [environment] at h
    split at h <;> cases h
    exact ⟨Nat.le_refl _, fun _ => rfl⟩
  | clock d => cases h; exact ⟨Nat.le_add_right _ _, fun _ => rfl⟩
  | _ => cases h; exact ⟨Nat.le_refl _, fun _ => rfl⟩

/-- Settles O47: the clock alone writes the time, which it adds to; every step puts its events in front of the trace. -/
theorem timeAndTraceGrow : Obligations.TimeAndTraceGrow := by
  intro s t h
  obtain ⟨added, grown⟩ := step_trace_suffix h
  refine ⟨?_, added, grown.symm⟩
  rcases step_next h with ⟨ms, hc⟩ | ⟨m, ms, -, he⟩
  · exact (control_next hc).now_eq.ge
  · exact (environment_now_hostPort he).1

/-! ## A busy host port -/

/-- Outside `IDLE` a host operation is no step (10_state.md R43). -/
theorem exec_host_busy {s : State} (busy : s.busy = true) :
    (∀ rst x, exec (.init rst x) s = .next s) ∧ ∀ x0 y0 x1 y1 src, exec (.flush x0 y0 x1 y1 src) s = .next s :=
  ⟨fun _ _ => if_pos (State.busy_eq_true.1 busy), fun _ _ _ _ _ => if_pos (State.busy_eq_true.1 busy)⟩

@[simp] theorem State.submit_hostPort (op : Byte) (r : Req) (s : State) :
    (s.submit op r).hostPort = s.hostPort := by
  obtain ⟨_, _, _, _, _, _, _, _, h⟩ := s.submit_writes op r
  simp [h]

@[simp] theorem State.nextEntry_hostPort (s : State) : s.nextEntry.hostPort = s.hostPort := by
  rcases s.nextEntry_cases with ⟨-, h⟩ | ⟨-, h⟩ <;> simp [h]

/-- With an operation in progress the controller leaves the host port alone. -/
theorem Transition.hostPort_busy {s t : State} (h : Transition s t) (busy : s.phase ≠ .idle) :
    t.hostPort = s.hostPort := by
  cases h with
  | initRejected _ idle | initUnpulsed _ idle | initPulsed _ idle | flushRejected _ _ _ idle | flushStarted _ _ idle =>
    exact absurd idle busy
  | _ => simp [State.loaded, State.headed, State.received]

/-- Settles O31: outside `IDLE` a host operation is no step, no step accepts one, and none but `IDLE`'s takes the request
from the port. -/
theorem busyAcceptsNothing : Obligations.BusyAcceptsNothing := by
  intro s busy
  obtain ⟨init, flush⟩ := exec_host_busy busy
  refine ⟨init, flush, fun i t n h => step_busy_accepts_nothing h busy i n, fun t h waiting => ?_⟩
  rcases step_next h with ⟨ms, hc⟩ | ⟨m, ms, -, he⟩
  · exact (control_next hc).hostPort_busy (State.busy_eq_true.1 busy)
  · exact (environment_now_hostPort he).2 waiting

/-! ## A stalled transport -/

/-- With no completion signal the wait step changes nothing (60_exceptions.md R253). -/
theorem awaitDone_stalled {s : State} (quiet : s.completion = none) (k : Completion → State → Result1) :
    awaitDone s k = .next s :=
  awaitDone_next.2 (.inl ⟨quiet, rfl⟩)

/-- The controller in a wait phase whose transport gives no signal. -/
theorem control_stalled {s : State}
    (waits : s.phase = .iWait ∨ s.phase = .fCasetWait ∨ s.phase = .fRasetWait ∨ s.phase = .fPixWait)
    (quiet : s.completion = none) : control s = .next s := by
  rcases waits with h | h | h | h
  · exact (control_iWait h).trans (awaitDone_stalled quiet _)
  · exact (control_addressWait (.inl ⟨h, rfl⟩)).trans (awaitDone_stalled quiet _)
  · exact (control_addressWait (.inr ⟨h, rfl⟩)).trans (awaitDone_stalled quiet _)
  · exact (control_pixWait h).trans (awaitDone_stalled quiet _)

/-- Settles O35: one such step changes nothing, and so do any number of them. -/
theorem stalledTransportHangs : Obligations.StalledTransportHangs := by
  intro s waits quiet no_moves n
  have stays : step s = .next s := (step_of_no_moves no_moves).trans (control_stalled waits quiet)
  induction n with
  | zero => rfl
  | succ n ih => rw [run_succ stays, ih]

end Sys2Proof.Machine
end

section
/-! SUPPORT. The colour permutation by bits, by fields and by numbers: its third power, its image and collisions, its
fixed points, and the channels the glass shows (43_color_permutation.md R205 to R209, 20_memory.md R85). -/

namespace Sys2Proof

/-! ## By bits -/

/-- The bits of a corrected word, from the low end: the top five of green, a zero, red, blue
(43_color_permutation.md R206). -/
theorem getLsbD_perm (v : Half) {i : Nat} (hi : i < 16) :
    (perm v).getLsbD i =
      if i < 5 then v.getLsbD (i + 6) else if i = 5 then false else if i < 11 then v.getLsbD (i + 5)
      else v.getLsbD (i - 11) := by
  have fields : perm v = (blue v ++ (red v).setWidth 6 <<< 1 ++ (green v >>> 1).setWidth 5).cast rfl := rfl
  rw [fields, getLsbD_triple rfl]
  interval_cases i <;> simp [red, green, blue]

/-- The lowest green bit of a corrected word is zero. -/
theorem getLsbD_perm_five (v : Half) : (perm v).getLsbD 5 = false := getLsbD_perm v (by decide)

/-- The lowest green bit of a word does not count. -/
theorem perm_xor_lowestGreen (v : Half) : perm (v ^^^ 0x0020) = perm v := by
  refine BitVec.eq_of_getLsbD_eq fun i hi => ?_
  rw [getLsbD_perm _ hi, getLsbD_perm _ hi]
  interval_cases i <;> simp

/-- T as masks and shifts. -/
theorem perm_masks (v : Half) :
    perm v = ((v &&& 0x001F) <<< 11) ||| ((v &&& 0xF800) >>> 5) ||| ((v &&& 0x07C0) >>> 6) := by
  refine BitVec.eq_of_getLsbD_eq fun i hi => ?_
  rw [getLsbD_perm _ hi]
  interval_cases i <;> simp

/-! ## By fields -/

/-- Words are equal when their fields are. -/
theorem eq_iff_fields {u v : Half} : u = v ↔ red u = red v ∧ green u = green v ∧ blue u = blue v := by
  refine ⟨by rintro rfl; exact ⟨rfl, rfl, rfl⟩, fun ⟨hr, hg, hb⟩ => ?_⟩
  rw [← rgb565_fields u, ← rgb565_fields v, hr, hg, hb]

/-- Red shifted left and back. -/
@[simp] theorem extractLsb'_append_zero (r : BitVec 5) : (r ++ 0#1).extractLsb' 1 5 = r :=
  BitVec.extractLsb'_append_eq_left

/-- The bits of green above the lowest. -/
theorem extractLsb'_six_eq_green (v : Half) : v.extractLsb' 6 5 = (green v).extractLsb' 1 5 := by
  refine BitVec.eq_of_getLsbD_eq fun i hi => ?_
  interval_cases i <;> simp [green]

/-- Settles O11: the mask form and the lost bit by bits, the others by the fields of the corrected word. -/
theorem permMasks : Obligations.PermMasks := by
  intro v
  refine ⟨perm_masks v, red_perm v, ?_, getLsbD_perm_five v, ?_, perm_xor_lowestGreen v⟩
  · rw [extractLsb'_six_eq_green, green_perm, extractLsb'_append_zero]
    rfl
  · rw [extractLsb'_six_eq_green]
    exact blue_perm v

/-- Settles O14: the glass shows the fields of the corrected word. -/
theorem shownColour : Obligations.ShownColour :=
  fun v => ⟨red_perm v, green_perm v, blue_perm v⟩

/-- Three applications lose the lowest green bit alone. -/
theorem fields_perm_cubed (v : Half) :
    red (perm (perm (perm v))) = red v ∧ green (perm (perm (perm v))) = (green v).extractLsb' 1 5 ++ 0#1 ∧
      blue (perm (perm (perm v))) = blue v := by
  simp

/-- The mask that clears the lowest green bit, by fields. -/
theorem fields_and_mask (v : Half) :
    red (v &&& 0xFFDF) = red v ∧ green (v &&& 0xFFDF) = green v &&& 62 ∧ blue (v &&& 0xFFDF) = blue v :=
  ⟨BitVec.extractLsb'_and.trans BitVec.and_allOnes, BitVec.extractLsb'_and,
    BitVec.extractLsb'_and.trans BitVec.and_allOnes⟩

/-- The word with the lowest green bit flipped, by fields. -/
theorem fields_xor_lowestGreen (v : Half) :
    red (v ^^^ 0x0020) = red v ∧ green (v ^^^ 0x0020) = green v ^^^ 1 ∧ blue (v ^^^ 0x0020) = blue v :=
  ⟨BitVec.extractLsb'_xor.trans BitVec.xor_zero, BitVec.extractLsb'_xor, BitVec.extractLsb'_xor.trans BitVec.xor_zero⟩

/-- Three applications are the mask (43_color_permutation.md R208). -/
theorem perm_cubed (v : Half) : perm (perm (perm v)) = v &&& 0xFFDF := by
  have cleared : ∀ g : BitVec 6, g.extractLsb' 1 5 ++ 0#1 = g &&& 62 := by decide
  obtain ⟨r, g, b⟩ := fields_perm_cubed v
  obtain ⟨r', g', b'⟩ := fields_and_mask v
  exact eq_iff_fields.2 ⟨r.trans r'.symm, (g.trans (cleared _)).trans g'.symm, b.trans b'.symm⟩

/-! ## By numbers -/

theorem toNat_append_zero (r : BitVec 5) : (r ++ 0#1).toNat = 2 * r.toNat := by
  rw [BitVec.toNat_append, Nat.shiftLeft_eq]
  simp [Nat.mul_comm]

theorem toNat_extractLsb'_one (g : BitVec 6) : (g.extractLsb' 1 5).toNat = g.toNat / 2 := by
  rw [BitVec.extractLsb'_toNat, Nat.shiftRight_eq_div_pow]
  omega

theorem toNat_xor_one : ∀ g : BitVec 6, (g ^^^ 1).toNat = if g.toNat % 2 = 1 then g.toNat - 1 else g.toNat + 1 := by
  decide

/-- The fields of a word as numbers. -/
theorem toNat_fields (v : Half) :
    (red v).toNat = v.toNat / 2048 ∧ (green v).toNat = v.toNat / 32 % 64 ∧ (blue v).toNat = v.toNat % 32 := by
  refine ⟨?_, ?_, ?_⟩ <;> simp only [red, green, blue, BitVec.extractLsb'_toNat, Nat.shiftRight_eq_div_pow] <;> omega

/-- Words are equal when the numbers in their fields are. -/
theorem eq_iff_toNat_fields {u v : Half} :
    u = v ↔ (red u).toNat = (red v).toNat ∧ (green u).toNat = (green v).toNat ∧ (blue u).toNat = (blue v).toNat := by
  simp only [eq_iff_fields, BitVec.toNat_inj]

/-- A word as a number, by its fields. -/
theorem toNat_eq_fields (v : Half) : v.toNat = (red v).toNat * 2048 + (green v).toNat * 32 + (blue v).toNat := by
  obtain ⟨r, g, b⟩ := toNat_fields v
  omega

/-- The lowest green bit is the parity of green. -/
theorem getLsbD_five (v : Half) : v.getLsbD 5 = decide ((green v).toNat % 2 = 1) := by
  obtain ⟨-, g, -⟩ := toNat_fields v
  rw [BitVec.getLsbD, Nat.testBit_eq_decide_div_mod_eq, g]
  congr 1
  simp

/-- The lowest green bit is set where green is odd. -/
theorem getLsbD_five_eq_true {v : Half} : v.getLsbD 5 = true ↔ (green v).toNat % 2 = 1 := by
  rw [getLsbD_five, decide_eq_true_eq]

/-- The lowest green bit is clear where green is even. -/
theorem getLsbD_five_eq_false {v : Half} : v.getLsbD 5 = false ↔ (green v).toNat % 2 = 0 := by
  rw [getLsbD_five, decide_eq_false_iff_not]
  omega

/-- The third power is the word itself where green is even. -/
theorem perm_cubed_eq_self {v : Half} : perm (perm (perm v)) = v ↔ v.getLsbD 5 = false := by
  obtain ⟨r, g, b⟩ := fields_perm_cubed v
  rw [eq_iff_toNat_fields, r, g, b, toNat_append_zero, toNat_extractLsb'_one, getLsbD_five_eq_false]
  omega

/-- The third power flips the lowest green bit where green is odd. -/
theorem perm_cubed_of_odd {v : Half} (odd : v.getLsbD 5 = true) : perm (perm (perm v)) = v ^^^ 0x0020 := by
  rw [getLsbD_five_eq_true] at odd
  obtain ⟨r, g, b⟩ := fields_perm_cubed v
  obtain ⟨r', g', b'⟩ := fields_xor_lowestGreen v
  rw [eq_iff_toNat_fields, r, g, b, r', g', b', toNat_append_zero, toNat_extractLsb'_one, toNat_xor_one, if_pos odd]
  omega

/-- A word loses 32 with its lowest green bit. -/
theorem toNat_xor_of_odd {v : Half} (odd : v.getLsbD 5 = true) : (v ^^^ 0x0020).toNat + 32 = v.toNat := by
  rw [getLsbD_five_eq_true] at odd
  obtain ⟨r, g, b⟩ := fields_xor_lowestGreen v
  rw [toNat_eq_fields, toNat_eq_fields v, r, g, b, toNat_xor_one, if_pos odd]
  omega

/-- Settles O12: the third power by fields, against the mask and against the word; the second power by fields. -/
theorem permThreeFold : Obligations.PermThreeFold := by
  refine fun v => ⟨perm_cubed v, perm_cubed_eq_self, fun odd => ?_, by simp, by simp, by simp⟩
  have lost := toNat_xor_of_odd odd
  rw [perm_cubed_of_odd odd, ← BitVec.xor_assoc, BitVec.xor_self]
  exact ⟨by bv_omega, BitVec.zero_xor⟩

/-! ## The image and the fixed points -/

/-- Words of one image differ in the lowest green bit at most. -/
theorem eq_or_eq_xor_of_perm_eq {u v : Half} (h : perm u = perm v) : u = v ∨ u = v ^^^ 0x0020 := by
  obtain ⟨b, r, g⟩ := eq_iff_toNat_fields.1 h
  obtain ⟨r', g', b'⟩ := fields_xor_lowestGreen v
  rw [red_perm, red_perm] at b
  rw [green_perm, green_perm, toNat_append_zero, toNat_append_zero] at r
  rw [blue_perm, blue_perm, toNat_extractLsb'_one, toNat_extractLsb'_one] at g
  rw [eq_iff_toNat_fields, eq_iff_toNat_fields, r', g', b', toNat_xor_one]
  split <;> omega

/-- A fixed point has blue and red alike, and green twice as much. -/
theorem perm_eq_self {v : Half} : perm v = v ↔ blue v = red v ∧ (green v).toNat = 2 * (red v).toNat := by
  rw [eq_iff_toNat_fields, red_perm, green_perm, blue_perm, toNat_append_zero, toNat_extractLsb'_one, ← BitVec.toNat_inj]
  omega

/-- A word with blue and red alike and green twice as much is a multiple of 0x0841. -/
theorem fields_eq_iff_multiple {v : Half} :
    (blue v = red v ∧ (green v).toNat = 2 * (red v).toNat) ↔ ∃ r < 32, v = BitVec.ofNat 16 (r * 0x0841) := by
  rw [← BitVec.toNat_inj]
  constructor
  · rintro ⟨b, g⟩
    have word := toNat_eq_fields v
    have small := (red v).isLt
    refine ⟨(red v).toNat, small, BitVec.eq_of_toNat_eq ?_⟩
    rw [BitVec.toNat_ofNat]
    omega
  · rintro ⟨r, small, rfl⟩
    have number : (BitVec.ofNat 16 (r * 0x0841)).toNat = r * 0x0841 := by rw [BitVec.toNat_ofNat]; omega
    obtain ⟨hr, hg, hb⟩ := toNat_fields (BitVec.ofNat 16 (r * 0x0841))
    rw [number] at hr hg hb
    have red_r : r * 0x0841 / 2048 = r := by omega
    have above_blue : r * 0x0841 / 32 = 66 * r := by omega
    omega

/-- A near-fixed point: green one more than twice red. -/
theorem perm_near_fixed {v : Half} (alike : blue v = red v) (odd : (green v).toNat = 2 * (red v).toNat + 1) :
    perm v = v ^^^ 0x0020 := by
  obtain ⟨r, g, b⟩ := fields_xor_lowestGreen v
  rw [eq_iff_toNat_fields, r, g, b, red_perm, green_perm, blue_perm, toNat_append_zero, toNat_extractLsb'_one,
    toNat_xor_one, if_pos (by omega), alike]
  omega

/-- Settles O13: the image is where the third power is the word itself; collisions, fixed and near-fixed points by their
fields. -/
theorem permImageAndFixedPoints : Obligations.PermImageAndFixedPoints := by
  refine ⟨fun w => ⟨?_, fun even => ⟨_, perm_cubed_eq_self.2 even⟩⟩, fun u v => ⟨eq_or_eq_xor_of_perm_eq, ?_⟩,
    fun v => perm_cubed_eq_self.2, fun w even => ⟨_, getLsbD_perm_five _, perm_cubed_eq_self.2 even⟩,
    fun v => perm_eq_self, fun v => perm_eq_self.trans fields_eq_iff_multiple, fun v => perm_near_fixed⟩
  · rintro ⟨v, rfl⟩
    exact getLsbD_perm_five v
  · rintro (rfl | rfl)
    · rfl
    · exact perm_xor_lowestGreen v

end Sys2Proof
end

section
/-! SUPPORT. The clocks of a transaction, bit by bit (20_memory.md section 2, 30_encoding.md R100 to R103). -/

namespace Sys2Proof.Machine

@[simp] theorem length_bitsMsbFirst {w : Nat} (v : BitVec w) : (bitsMsbFirst v).length = w := by
  simp [bitsMsbFirst]

/-- Bit `k` of a value, from the most significant. -/
theorem getElem?_bitsMsbFirst {w k : Nat} (v : BitVec w) (hk : k < w) : (bitsMsbFirst v)[k]? = some (v.getMsbD k) := by
  simp [bitsMsbFirst, hk]

/-- Clocks that a data byte takes. -/
def clocksPerByte : DataLines → Nat
  | .single => 8
  | .quad => 2

@[simp] theorem length_byteClocks (l : DataLines) (b : Byte) : (byteClocks l b).length = clocksPerByte l := by
  cases l <;> simp [byteClocks, clocksPerByte]

/-- The clocks of the data phase. -/
theorem length_flatMap_byteClocks (l : DataLines) (bs : List Byte) :
    (bs.flatMap (byteClocks l)).length = clocksPerByte l * bs.length := by
  simp [List.length_flatMap, Nat.mul_comm]

/-- Clock `j` of data byte `k`. -/
theorem getElem?_flatMap_byteClocks {l : DataLines} {bs : List Byte} {k j : Nat} {b : Byte} (hb : bs[k]? = some b)
    (hj : j < clocksPerByte l) : (bs.flatMap (byteClocks l))[clocksPerByte l * k + j]? = (byteClocks l b)[j]? := by
  induction bs generalizing k with
  | nil => simp at hb
  | cons a bs ih =>
    rw [List.flatMap_cons]
    cases k with
    | zero =>
      cases Option.some.inj hb
      rw [Nat.mul_zero, Nat.zero_add, List.getElem?_append_left (by simpa using hj)]
    | succ k =>
      have skip : clocksPerByte l * (k + 1) + j = (byteClocks l a).length + (clocksPerByte l * k + j) := by
        rw [length_byteClocks, Nat.mul_succ]
        omega
      rw [skip, List.getElem?_append_right (Nat.le_add_right _ _), Nat.add_sub_cancel_left]
      exact ih hb

/-- The clocks of the marker. -/
theorem Req.getElem?_clocks_marker (r : Req) {k : Nat} (hk : k < 8) :
    r.clocks[k]? = some (.io0 (r.marker.getMsbD k)) := by
  rw [Req.clocks, List.append_assoc, List.getElem?_append_left (by simpa using hk), List.getElem?_map,
    getElem?_bitsMsbFirst _ hk]
  rfl

/-- The clocks of the address field. -/
theorem Req.getElem?_clocks_addr (r : Req) {k : Nat} (hk : k < 24) :
    r.clocks[8 + k]? = some (.io0 (r.addr.getMsbD k)) := by
  rw [Req.clocks, List.append_assoc, List.getElem?_append_right (by simp), List.getElem?_append_left (by simpa)]
  simp [getElem?_bitsMsbFirst _ hk]

/-- The clocks of the data phase. -/
theorem Req.getElem?_clocks_data (r : Req) {k j : Nat} {b : Byte} (hb : r.data[k]? = some b)
    (hj : j < clocksPerByte r.dataLines) :
    r.clocks[32 + clocksPerByte r.dataLines * k + j]? = (byteClocks r.dataLines b)[j]? := by
  rw [Nat.add_assoc, Req.clocks, List.getElem?_append_right (by simp)]
  simpa using getElem?_flatMap_byteClocks hb hj

/-- Settles O9: marker, address field and data, clock by clock. -/
theorem clockCounts : Obligations.ClockCounts := by
  refine fun r => ⟨?_, fun k => r.getElem?_clocks_marker, fun k => r.getElem?_clocks_addr, fun k b hb =>
    ⟨fun lines j hj => ?_, fun lines => ⟨?_, ?_⟩⟩⟩
  · simp only [Req.clocks, List.length_append, List.length_map, length_bitsMsbFirst, length_flatMap_byteClocks]
    rfl
  all_goals
    have data {j : Nat} := r.getElem?_clocks_data (j := j) hb
    rw [lines] at data
  · refine (data hj).trans ?_
    rw [byteClocks, List.getElem?_map, getElem?_bitsMsbFirst _ hj]
    rfl
  · exact data (j := 0) (by decide)
  · exact data (j := 1) (by decide)

end Sys2Proof.Machine
end

section
/-! SUPPORT. Frames written out, power-on reset, and the host operations outside the block (95_test_vectors.md V2 to V5,
10_state.md section 10, 93_implementation_defined.md U4, U7, U19, U20). -/

namespace Sys2Proof.Machine

/-- Settles O1: the decoder runs on each frame. -/
theorem writtenFramesDecode : Obligations.WrittenFramesDecode :=
  ⟨rfl, rfl, rfl, rfl, rfl, rfl, rfl, rfl, rfl, rfl, rfl⟩

/-- `por` is a step of every state. -/
theorem step_por {s : State} {ms : List Move} (next : s.moves = .por :: ms) :
    step s = .next (s.withMoves ms).powerOnReset := by
  rw [step, next]
  rfl

/-- Settles O15: the registers of `State.reset`, which `por` gives every state; with no request the machine waits. -/
theorem resetValues : Obligations.ResetValues :=
  ⟨rfl, rfl, rfl, rfl, rfl, rfl, rfl, rfl, rfl, rfl, rfl, rfl, fun _ _ next =>
    ⟨_, step_por next, rfl, rfl, rfl, rfl, rfl, rfl, rfl, rfl, rfl, rfl, rfl⟩⟩

/-- Settles O53: each field of the invariant is a register of `State.reset`. -/
theorem invariantAtReset : Obligations.InvariantAtReset where
  configured := nofun
  attached := nofun
  slot := rfl
  signal := nofun
  line := ⟨nofun, nofun⟩
  scratch := rfl
  params := ⟨rfl, Nat.zero_le _⟩
  mark := Nat.zero_le _
  panel := rfl
  progress := trivial

/-- `por` leaves the reset line released. -/
theorem Panel.held_lineReleased (p : Panel) (n : Nat) : (p.lineReleased n).held = false := by
  unfold Panel.lineReleased
  split
  · rfl
  · exact Bool.eq_false_iff.2 ‹_›

/-- After `por` the reset line is released; the panel of an operation cut short is not known. -/
theorem State.powerOnReset_panel (s : State) :
    s.powerOnReset.panel.held = false ∧
      (s.phase ≠ .idle ∨ s.inflight ≠ none → s.powerOnReset.panel.lost = true) := by
  by_cases rest : s.phase = .idle ∧ s.inflight = none
  · have panel : s.powerOnReset.panel = s.panel.lineReleased s.now := if_pos rest
    rw [panel]
    exact ⟨Panel.held_lineReleased _ _, fun cut => absurd rest (by tauto)⟩
  · have panel : s.powerOnReset.panel = s.panel.interrupted s.now := if_neg rest
    rw [panel]
    exact ⟨Panel.held_lineReleased _ _, fun _ => rfl⟩

/-- Settles O16: what the reset state takes from the state before it, and its panel. -/
theorem powerOnReset : Obligations.PowerOnReset := by
  intro s ms next
  obtain ⟨released, cut⟩ := (s.withMoves ms).powerOnReset_panel
  exact ⟨_, step_por next, rfl, released, cut, rfl, rfl, rfl, rfl, rfl, rfl, rfl⟩

/-- INIT under a configuration that is not one of this block. -/
theorem exec_init_illFormed {s : State} (rst : Bool) (h : XHandle) (idle : s.phase = .idle) (ill : s.cfg.wf = false) :
    exec (.init rst (some h)) s = .refused .illFormedConfig := by
  simp [exec, execInit, idle, ill]

/-- A FLUSH in order, over the transport's maximum. -/
theorem exec_flush_tooLarge {s : State} {w : Window} {px : List Half} (idle : s.phase = .idle)
    (attached : s.handle ≠ none) (valid : windowCause s.cfg w px = none)
    (tooLarge : s.cfg.maxXferBytes < 2 * px.length) :
    exec (flushOp w (some px)) s = .refused .transferTooLarge := by
  obtain ⟨-, -, npix⟩ := windowCause_eq_none.1 valid
  have cause : flushCause s w (some px) = none := flushCause_eq_none.2 ⟨attached, px, rfl, valid⟩
  simp only [flushOp, exec, execFlush, idle, ne_eq, not_true, if_false, cause, if_pos (npix ▸ tooLarge)]

/-- Settles O30: INIT by its configuration; such a FLUSH has no cause. -/
theorem outsideTheBlockRefused : Obligations.OutsideTheBlockRefused :=
  fun _ idle => ⟨fun rst h ill => exec_init_illFormed rst h idle ill,
    fun x0 y0 x1 y1 _ attached columns rows right bottom npix tooLarge =>
      exec_flush_tooLarge (w := ⟨x0, y0, x1, y1⟩) idle attached
        (windowCause_eq_none.2 ⟨⟨columns, rows⟩, ⟨right, bottom⟩, npix⟩) tooLarge⟩

end Sys2Proof.Machine
end
